-- ==== Sys2Proof/Word.lean ====
section
/-! DEFINITION. The bit widths of the machine (spec/00_scope.md R5, R7). -/

namespace Sys2Proof

/-- An 8-bit register or memory byte (R21, R63). -/
abbrev Byte := BitVec 8

/-- A 4-bit opcode field or key index (R92, R31). -/
abbrev Nibble := BitVec 4

/-- A 12-bit opcode field `nnn` (R92). -/
abbrev Addr := BitVec 12

/-- A 16-bit register or opcode: `pc`, `I`, a stack entry, `op` (R22, R24, R25, R90). -/
abbrev Word := BitVec 16

end Sys2Proof
end

