-- ==== Sys2Proof/Syntax.lean ====
section
/-! DEFINITION. The instructions: one constructor per row of spec/30_encoding.md R96, in the table's
order. Field names are the spec's (R92). Opcodes outside the table are no instruction (R97): the decoder
rejects them and the step records `UnknownOpcode` for them (spec/60_exceptions.md R224). -/

namespace Sys2Proof

inductive Instr where
  /-- Row 1, `0nnn SYS addr`. -/
  | sys (nnn : Addr)
  /-- Row 2, `00E0 CLS`. -/
  | cls
  /-- Row 3, `00EE RET`. -/
  | ret
  /-- Row 4, `1nnn JP addr`. -/
  | jp (nnn : Addr)
  /-- Row 5, `2nnn CALL addr`. -/
  | call (nnn : Addr)
  /-- Row 6, `3xkk SE Vx, byte`. -/
  | seImm (x : Nibble) (kk : Byte)
  /-- Row 7, `4xkk SNE Vx, byte`. -/
  | sneImm (x : Nibble) (kk : Byte)
  /-- Row 8, `5xy0 SE Vx, Vy`. -/
  | seReg (x y : Nibble)
  /-- Row 9, `6xkk LD Vx, byte`. -/
  | ldImm (x : Nibble) (kk : Byte)
  /-- Row 10, `7xkk ADD Vx, byte`. -/
  | addImm (x : Nibble) (kk : Byte)
  /-- Row 11, `8xy0 LD Vx, Vy`. -/
  | ldReg (x y : Nibble)
  /-- Row 12, `8xy1 OR Vx, Vy`. -/
  | orReg (x y : Nibble)
  /-- Row 13, `8xy2 AND Vx, Vy`. -/
  | andReg (x y : Nibble)
  /-- Row 14, `8xy3 XOR Vx, Vy`. -/
  | xorReg (x y : Nibble)
  /-- Row 15, `8xy4 ADD Vx, Vy`. -/
  | addReg (x y : Nibble)
  /-- Row 16, `8xy5 SUB Vx, Vy`. -/
  | sub (x y : Nibble)
  /-- Row 17, `8xy6 SHR Vx {, Vy}`; `y` is encoded and ignored (R100, D10). -/
  | shr (x y : Nibble)
  /-- Row 18, `8xy7 SUBN Vx, Vy`. -/
  | subn (x y : Nibble)
  /-- Row 19, `8xyE SHL Vx {, Vy}`; `y` is encoded and ignored (R100, D10). -/
  | shl (x y : Nibble)
  /-- Row 20, `9xy0 SNE Vx, Vy`. -/
  | sneReg (x y : Nibble)
  /-- Row 21, `Annn LD I, addr`. -/
  | ldI (nnn : Addr)
  /-- Row 22, `Bnnn JP V0, addr`. -/
  | jpV0 (nnn : Addr)
  /-- Row 23, `Cxkk RND Vx, byte`. -/
  | rnd (x : Nibble) (kk : Byte)
  /-- Row 24, `Dxyn DRW Vx, Vy, nibble`. -/
  | drw (x y n : Nibble)
  /-- Row 25, `Ex9E SKP Vx`. -/
  | skp (x : Nibble)
  /-- Row 26, `ExA1 SKNP Vx`. -/
  | sknp (x : Nibble)
  /-- Row 27, `Fx07 LD Vx, DT`. -/
  | ldVxDt (x : Nibble)
  /-- Row 28, `Fx0A LD Vx, K`. -/
  | ldVxK (x : Nibble)
  /-- Row 29, `Fx15 LD DT, Vx`. -/
  | ldDtVx (x : Nibble)
  /-- Row 30, `Fx18 LD ST, Vx`. -/
  | ldStVx (x : Nibble)
  /-- Row 31, `Fx1E ADD I, Vx`. -/
  | addI (x : Nibble)
  /-- Row 32, `Fx29 LD F, Vx`. -/
  | ldF (x : Nibble)
  /-- Row 33, `Fx33 LD B, Vx`. -/
  | ldB (x : Nibble)
  /-- Row 34, `Fx55 LD [I], Vx`. -/
  | storeRegs (x : Nibble)
  /-- Row 35, `Fx65 LD Vx, [I]`. -/
  | loadRegs (x : Nibble)
  deriving DecidableEq, Repr

end Sys2Proof
end

