-- ==== Sys2Proof/Decode.lean ====
section
/-! DEFINITION. The decoder (spec/30_encoding.md R94), total on every opcode and on every byte list, and
after it the encoder with each row's mask and match (R96). -/

namespace Sys2Proof

/-- Why bytes are no instruction. The first is a byte list that ends early; the others are the regions of
the unknown space, by leading nibble (R97). None is a trap: a running step that meets one records
`UnknownOpcode` (R224), which is safe. -/
inductive Reject where
  /-- Fewer than the two bytes of an opcode (R90); raised by `decodeBytes` only, never in a step. -/
  | truncated
  /-- `5xy?` with a low nibble other than 0 (R97). -/
  | unknown5
  /-- `8xy?` with a low nibble in 8, 9, A, B, C, D, F (R97). -/
  | unknown8
  /-- `9xy?` with a low nibble other than 0 (R97). -/
  | unknown9
  /-- `Ex??` with a low byte other than 9E, A1 (R97). -/
  | unknownE
  /-- `Fx??` with a low byte the table does not list (R97). -/
  | unknownF
  deriving DecidableEq, Repr

/-- The leading nibble `op[15:12]` (R91). -/
def fieldLead (op : Word) : Nibble := op.extractLsb' 12 4
/-- `x = op[11:8]` (R92). -/
def fieldX (op : Word) : Nibble := op.extractLsb' 8 4
/-- `y = op[7:4]` (R92). -/
def fieldY (op : Word) : Nibble := op.extractLsb' 4 4
/-- `n = op[3:0]` (R92). -/
def fieldN (op : Word) : Nibble := op.extractLsb' 0 4
/-- `kk = op[7:0]` (R92). -/
def fieldKK (op : Word) : Byte := op.extractLsb' 0 8
/-- `nnn = op[11:0]` (R92). -/
def fieldNNN (op : Word) : Addr := op.extractLsb' 0 12

/-- Leading nibble 0: `CLS`, `RET`, else `SYS` (R94). -/
def decode0 (op : Word) : Instr :=
  if op = 0x00E0#16 then .cls else if op = 0x00EE#16 then .ret else .sys (fieldNNN op)

/-- Leading nibble 8, chosen by the low nibble (R94). -/
def decode8 (op : Word) : Except Reject Instr :=
  let x := fieldX op
  let y := fieldY op
  if fieldN op = 0x0#4 then .ok (.ldReg x y)
  else if fieldN op = 0x1#4 then .ok (.orReg x y)
  else if fieldN op = 0x2#4 then .ok (.andReg x y)
  else if fieldN op = 0x3#4 then .ok (.xorReg x y)
  else if fieldN op = 0x4#4 then .ok (.addReg x y)
  else if fieldN op = 0x5#4 then .ok (.sub x y)
  else if fieldN op = 0x6#4 then .ok (.shr x y)
  else if fieldN op = 0x7#4 then .ok (.subn x y)
  else if fieldN op = 0xE#4 then .ok (.shl x y)
  else .error .unknown8

/-- Leading nibble E, chosen by the low byte (R94). -/
def decodeE (op : Word) : Except Reject Instr :=
  if fieldKK op = 0x9E#8 then .ok (.skp (fieldX op))
  else if fieldKK op = 0xA1#8 then .ok (.sknp (fieldX op))
  else .error .unknownE

/-- Leading nibble F, chosen by the low byte (R94). -/
def decodeF (op : Word) : Except Reject Instr :=
  let x := fieldX op
  if fieldKK op = 0x07#8 then .ok (.ldVxDt x)
  else if fieldKK op = 0x0A#8 then .ok (.ldVxK x)
  else if fieldKK op = 0x15#8 then .ok (.ldDtVx x)
  else if fieldKK op = 0x18#8 then .ok (.ldStVx x)
  else if fieldKK op = 0x1E#8 then .ok (.addI x)
  else if fieldKK op = 0x29#8 then .ok (.ldF x)
  else if fieldKK op = 0x33#8 then .ok (.ldB x)
  else if fieldKK op = 0x55#8 then .ok (.storeRegs x)
  else if fieldKK op = 0x65#8 then .ok (.loadRegs x)
  else .error .unknownF

/-- The total decoder of an opcode (R94; strict by D6, notes/assumptions/3.md). -/
def decode (op : Word) : Except Reject Instr :=
  let x := fieldX op
  let y := fieldY op
  let nnn := fieldNNN op
  let kk := fieldKK op
  if fieldLead op = 0x0#4 then .ok (decode0 op)
  else if fieldLead op = 0x1#4 then .ok (.jp nnn)
  else if fieldLead op = 0x2#4 then .ok (.call nnn)
  else if fieldLead op = 0x3#4 then .ok (.seImm x kk)
  else if fieldLead op = 0x4#4 then .ok (.sneImm x kk)
  else if fieldLead op = 0x5#4 then
    if fieldN op = 0x0#4 then .ok (.seReg x y) else .error .unknown5
  else if fieldLead op = 0x6#4 then .ok (.ldImm x kk)
  else if fieldLead op = 0x7#4 then .ok (.addImm x kk)
  else if fieldLead op = 0x8#4 then decode8 op
  else if fieldLead op = 0x9#4 then
    if fieldN op = 0x0#4 then .ok (.sneReg x y) else .error .unknown9
  else if fieldLead op = 0xA#4 then .ok (.ldI nnn)
  else if fieldLead op = 0xB#4 then .ok (.jpV0 nnn)
  else if fieldLead op = 0xC#4 then .ok (.rnd x kk)
  else if fieldLead op = 0xD#4 then .ok (.drw x y (fieldN op))
  else if fieldLead op = 0xE#4 then decodeE op
  else decodeF op

/-- Two bytes as a big-endian opcode, the first the high byte (R90, spec/20_memory.md R64). -/
def joinBytes (hi lo : Byte) : Word := hi ++ lo

/-- The bytes of an opcode as memory holds them: high byte at the lower address (R64). -/
def splitWord (op : Word) : List Byte := [op.extractLsb' 8 8, op.extractLsb' 0 8]

/-- Decode the first instruction of a byte list and give the bytes after it (R90, R94). -/
def decodeBytes : List Byte → Except Reject (Instr × List Byte)
  | hi :: lo :: rest => (decode (joinBytes hi lo)).map fun i => (i, rest)
  | _ => .error .truncated

/-- The instruction's bits above the `nbits` the opcode table gives are 0; the table numbers the one
16-bit word as `op` (spec/98_reader.md). -/
def tableWord (nbits w : Nat) : Word := BitVec.ofNat 16 (w % 2 ^ nbits)

/-- What the decoder reads from the table's word `w`, laid out as memory holds it. -/
def decodeTableWord (nbits w : Nat) : Option Instr :=
  match decodeBytes (splitWord (tableWord nbits w)) with
  | .ok (i, _) => some i
  | .error _ => none

/-- Format `NNN` (R91): leading nibble, then the 12-bit address. -/
def formNNN (lead : Nibble) (nnn : Addr) : Word := lead ++ nnn
/-- Format `XKK` (R91). -/
def formXKK (lead x : Nibble) (kk : Byte) : Word := lead ++ (x ++ kk)
/-- Formats `XY` and `XYN` (R91): the low nibble is the sub-opcode or `n`. -/
def formXYN (lead x y n : Nibble) : Word := lead ++ (x ++ (y ++ n))

/-- The opcode of an instruction (R91, R96). -/
def encode : Instr → Word
  | .sys nnn => formNNN 0x0 nnn
  | .cls => 0x00E0
  | .ret => 0x00EE
  | .jp nnn => formNNN 0x1 nnn
  | .call nnn => formNNN 0x2 nnn
  | .seImm x kk => formXKK 0x3 x kk
  | .sneImm x kk => formXKK 0x4 x kk
  | .seReg x y => formXYN 0x5 x y 0x0
  | .ldImm x kk => formXKK 0x6 x kk
  | .addImm x kk => formXKK 0x7 x kk
  | .ldReg x y => formXYN 0x8 x y 0x0
  | .orReg x y => formXYN 0x8 x y 0x1
  | .andReg x y => formXYN 0x8 x y 0x2
  | .xorReg x y => formXYN 0x8 x y 0x3
  | .addReg x y => formXYN 0x8 x y 0x4
  | .sub x y => formXYN 0x8 x y 0x5
  | .shr x y => formXYN 0x8 x y 0x6
  | .subn x y => formXYN 0x8 x y 0x7
  | .shl x y => formXYN 0x8 x y 0xE
  | .sneReg x y => formXYN 0x9 x y 0x0
  | .ldI nnn => formNNN 0xA nnn
  | .jpV0 nnn => formNNN 0xB nnn
  | .rnd x kk => formXKK 0xC x kk
  | .drw x y n => formXYN 0xD x y n
  | .skp x => formXKK 0xE x 0x9E
  | .sknp x => formXKK 0xE x 0xA1
  | .ldVxDt x => formXKK 0xF x 0x07
  | .ldVxK x => formXKK 0xF x 0x0A
  | .ldDtVx x => formXKK 0xF x 0x15
  | .ldStVx x => formXKK 0xF x 0x18
  | .addI x => formXKK 0xF x 0x1E
  | .ldF x => formXKK 0xF x 0x29
  | .ldB x => formXKK 0xF x 0x33
  | .storeRegs x => formXKK 0xF x 0x55
  | .loadRegs x => formXKK 0xF x 0x65

/-- The bytes of an instruction in memory order (R64, R90). -/
def encodeBytes (i : Instr) : List Byte := splitWord (encode i)

/-- The `mask` and `match` columns of an instruction's row (R96). -/
def rowMaskMatch : Instr → Word × Word
  | .sys _ => (0xF000, 0x0000)
  | .cls => (0xFFFF, 0x00E0)
  | .ret => (0xFFFF, 0x00EE)
  | .jp _ => (0xF000, 0x1000)
  | .call _ => (0xF000, 0x2000)
  | .seImm _ _ => (0xF000, 0x3000)
  | .sneImm _ _ => (0xF000, 0x4000)
  | .seReg _ _ => (0xF00F, 0x5000)
  | .ldImm _ _ => (0xF000, 0x6000)
  | .addImm _ _ => (0xF000, 0x7000)
  | .ldReg _ _ => (0xF00F, 0x8000)
  | .orReg _ _ => (0xF00F, 0x8001)
  | .andReg _ _ => (0xF00F, 0x8002)
  | .xorReg _ _ => (0xF00F, 0x8003)
  | .addReg _ _ => (0xF00F, 0x8004)
  | .sub _ _ => (0xF00F, 0x8005)
  | .shr _ _ => (0xF00F, 0x8006)
  | .subn _ _ => (0xF00F, 0x8007)
  | .shl _ _ => (0xF00F, 0x800E)
  | .sneReg _ _ => (0xF00F, 0x9000)
  | .ldI _ => (0xF000, 0xA000)
  | .jpV0 _ => (0xF000, 0xB000)
  | .rnd _ _ => (0xF000, 0xC000)
  | .drw _ _ _ => (0xF000, 0xD000)
  | .skp _ => (0xF0FF, 0xE09E)
  | .sknp _ => (0xF0FF, 0xE0A1)
  | .ldVxDt _ => (0xF0FF, 0xF007)
  | .ldVxK _ => (0xF0FF, 0xF00A)
  | .ldDtVx _ => (0xF0FF, 0xF015)
  | .ldStVx _ => (0xF0FF, 0xF018)
  | .addI _ => (0xF0FF, 0xF01E)
  | .ldF _ => (0xF0FF, 0xF029)
  | .ldB _ => (0xF0FF, 0xF033)
  | .storeRegs _ => (0xF0FF, 0xF055)
  | .loadRegs _ => (0xF0FF, 0xF065)

end Sys2Proof
end

