-- ==== Sys2Proof/Config.lean ====
section
/-! DEFINITION. The parameters the spec fixes (spec/00_scope.md R5) and the one it leaves open, the
random source `RNG` (R6, spec/45_random.md R181), as constants without a body. -/

namespace Sys2Proof

/-- `MEM_SIZE` (R5). -/
def Config.memSize : Nat := 4096
/-- `PROG_BASE`, where programs load and where `pc` starts (R5, R22). -/
def Config.progBase : Nat := 0x200
/-- `FONT_BASE` (R5). -/
def Config.fontBase : Nat := 0x050
/-- `GLYPH_BYTES` (R5). -/
def Config.glyphBytes : Nat := 5
/-- `NUM_GLYPHS` (R5). -/
def Config.numGlyphs : Nat := 16
/-- `MAX_PROGRAM` (R5). -/
def Config.maxProgram : Nat := 3584
/-- `STACK_DEPTH` (R5). -/
def Config.stackDepth : Nat := 16
/-- `DISPLAY_W` (R5). -/
def Config.displayWidth : Nat := 64
/-- `DISPLAY_H` (R5). -/
def Config.displayHeight : Nat := 32

/-- The byte drawn in generator state `n`: `next(n).1` of R181. FREE VALUE, no body (notes/assumptions/1.md). -/
opaque Config.rngDraw : Nat → Byte

/-- The generator state after a draw in state `n`: `next(n).2` of R181. FREE VALUE, no body (notes/assumptions/1.md). -/
opaque Config.rngNext : Nat → Nat

/-- The generator state a seed gives: `seed` of R181. FREE VALUE, no body (notes/assumptions/1.md). -/
opaque Config.rngSeed : Nat → Nat

end Sys2Proof
end

