-- ==== Sys2Proof/Machine/State.lean ====
section
/-! DEFINITION. The state of spec/10_state.md R20, whole ("Nothing else is state"), its reset value (R42),
and the reasons a step can stop. -/

namespace Sys2Proof.Machine

/-- The blocking-wait state with its key latch (R31). `target` means something while `waiting`, `key` while
`latched`; the legal states have `latched = false` whenever `waiting = false`. -/
structure Wait where
  waiting : Bool
  target : Nibble
  latched : Bool
  key : Nibble
  deriving DecidableEq, Repr

/-- The values of `COND` (R35; notes/assumptions/11.md). -/
inductive Cond where
  /-- Code 0, `None`: the step raised nothing. -/
  | none
  /-- Code 1: a `CALL` found sixteen entries on the stack (R222). -/
  | stackOverflow
  /-- Code 2: a `RET` found the stack empty (R223). -/
  | stackUnderflow
  /-- Code 3: `SYS` or an opcode of the unknown space (R224). -/
  | unknownOpcode
  deriving DecidableEq, Repr

/-- The framebuffer: row `y` is element `y`, and in it column `x` is element `x` (R33). -/
abbrev Framebuffer := Vector (Vector Bool 64) 32

/-- Main memory as (address, byte) cells: addresses rising, none listed that holds its reset byte. The form
is `Memory.wf`, in Machine/Memory.lean. -/
abbrev Memory := List Host.Cell

/-- The complete state of the machine (R20). -/
structure State where
  /-- `V[0..15]` (R21); `VF` is element 15 (R23). -/
  v : Vector Byte 16
  /-- The program counter (R22, D2, D3; notes/assumptions/9.md). -/
  pc : Word
  /-- The index register `I` (R24). -/
  i : Word
  /-- `STACK[0..15]` (R25). -/
  stack : Vector Word 16
  /-- `SP`, the number of entries, 0 to 16 (R26; notes/assumptions/9.md). -/
  sp : Fin 17
  /-- The delay timer `DT` (R28). -/
  dt : Byte
  /-- The sound timer `ST` (R29). -/
  st : Byte
  /-- `WAIT` (R31). -/
  wait : Wait
  /-- `Key[0..15]`, true while pressed (R32). -/
  keys : Vector Bool 16
  /-- `FB`, true where a pixel is on (R33). -/
  fb : Framebuffer
  /-- The redraw-pending flag (R34; 1 after reset by D24, notes/assumptions/11.md). -/
  redraw : Bool
  /-- `COND`, the condition of the most recent step (R35). -/
  cond : Cond
  /-- `RNG` (R36): the MODEL's counter of the free draws (notes/assumptions/1.md). -/
  rng : Nat
  /-- `MEM` (R37). -/
  mem : Memory
  deriving DecidableEq, Repr

/-- The machine right after reset (R42; spec/70_reset_and_hazards.md R240, R241). Memory lists nothing: an
unlisted address reads as its reset byte, 0 or a font byte. DESIGN CHOICE for `rng`, whose power-on value
the spec leaves unspecified (notes/assumptions/1.md). -/
def State.reset : State where
  v := Vector.replicate 16 0
  pc := 0x200
  i := 0
  stack := Vector.replicate 16 0
  sp := 0
  dt := 0
  st := 0
  wait := { waiting := false, target := 0, latched := false, key := 0 }
  keys := Vector.replicate 16 false
  fb := Vector.replicate 32 (Vector.replicate 64 false)
  redraw := true
  cond := .none
  rng := 0
  mem := []

/-- Why the machine stops with a fault: never. The spec gives every opcode, every address and every value an
effect (spec/60_exceptions.md R227 to R229), so the type has no constructor: nothing raises one, and that is
exact, neither a safe nor an unsafe difference (notes/assumptions/16.md). -/
inductive Fault where
  deriving DecidableEq, Repr

/-- Why an instruction has no meaning. -/
inductive Refusal where
  /-- Raised by an arm of `exec` for an instruction without a meaning yet; no arm does so now. Safe: the
  machine stops where the hardware would go on. -/
  | notModelled (mnemonic : String)
  deriving DecidableEq, Repr

end Sys2Proof.Machine
end

