-- ==== Sys2Proof/Machine/Memory.lean ====
section
/-! DEFINITION. Main memory (spec/20_memory.md): address wrap, the font and reset bytes, reading and writing
one byte over the canonical list of cells, and the loading of a byte sequence. -/

namespace Sys2Proof.Machine

/-- `addr mod 4096 = addr[11:0]` in a 16-bit container (R60; spec/10_state.md R22, R24). -/
def wrap12 (w : Word) : Word := (w.setWidth 12).setWidth 16

/-- `FONT_DATA`, glyphs 0 to 7 (R66, D17; notes/assumptions/2.md). -/
def fontLow : List Byte :=
  [0xF0, 0x90, 0x90, 0x90, 0xF0,
   0x20, 0x60, 0x20, 0x20, 0x70,
   0xF0, 0x10, 0xF0, 0x80, 0xF0,
   0xF0, 0x10, 0xF0, 0x10, 0xF0,
   0x90, 0x90, 0xF0, 0x10, 0x10,
   0xF0, 0x80, 0xF0, 0x10, 0xF0,
   0xF0, 0x80, 0xF0, 0x90, 0xF0,
   0xF0, 0x10, 0x20, 0x40, 0x40]

/-- `FONT_DATA`, glyphs 8 to F (R66, D17; notes/assumptions/2.md). -/
def fontHigh : List Byte :=
  [0xF0, 0x90, 0xF0, 0x90, 0xF0,
   0xF0, 0x90, 0xF0, 0x10, 0xF0,
   0xF0, 0x90, 0xF0, 0x90, 0x90,
   0xE0, 0x90, 0xE0, 0x90, 0xE0,
   0xF0, 0x80, 0x80, 0x80, 0xF0,
   0xE0, 0x90, 0x90, 0x90, 0xE0,
   0xF0, 0x80, 0xF0, 0x80, 0xF0,
   0xF0, 0x80, 0xF0, 0x80, 0x80]

/-- `FONT_DATA`: sixteen glyphs of five bytes (R66). -/
def fontData : List Byte := fontLow ++ fontHigh

/-- What `MemReset` leaves at address `a`: the font at `0x050..0x09F`, 0 elsewhere (R65, R74). It is what an
unlisted address reads as. -/
def resetByte (a : Nat) : Byte :=
  if a < Config.fontBase then 0 else fontData.getD (a - Config.fontBase) 0

/-- The byte listed for address `a`, if one is. -/
def Memory.lookup : Memory → Nat → Option Byte
  | [], _ => none
  | (b, w) :: m, a => if b = a then some w else Memory.lookup m a

/-- `MEM[a]`: the listed byte, else the reset byte (R61). -/
def Memory.read (m : Memory) (a : Nat) : Byte := (Memory.lookup m a).getD (resetByte a)

/-- The memory without any cell for `a`. -/
def Memory.erase : Memory → Nat → Memory
  | [], _ => []
  | (b, w) :: m, a => if b = a then Memory.erase m a else (b, w) :: Memory.erase m a

/-- The memory with `w` listed at `a`, in the place rising addresses give it. -/
def Memory.insert : Memory → Nat → Byte → Memory
  | [], a, w => [(a, w)]
  | (b, u) :: m, a, w =>
    if a < b then (a, w) :: (b, u) :: m
    else if a = b then (a, w) :: m
    else (b, u) :: Memory.insert m a w

/-- `MEM[a] <- w` in the canonical form (R62): the reset byte is never listed. -/
def Memory.write (m : Memory) (a : Nat) (w : Byte) : Memory :=
  if w = resetByte a then Memory.erase m a else Memory.insert m a w

/-- Addresses rise strictly from at least `lo`, all are below 4096, and no cell holds its reset byte. -/
def Memory.wfFrom : Nat → Memory → Bool
  | _, [] => true
  | lo, (a, w) :: m =>
    decide (lo ≤ a) && decide (a < Config.memSize) && (w != resetByte a) && Memory.wfFrom (a + 1) m

/-- The canonical form of memory. -/
def Memory.wf (m : Memory) : Bool := Memory.wfFrom 0 m

/-- `for i in 0..L-1: MEM[a + i] <- bytes[i]` (R74). -/
def Memory.writeAll : Memory → Nat → List Byte → Memory
  | m, _, [] => m
  | m, a, w :: ws => Memory.writeAll (Memory.write m a w) (a + 1) ws

/-- The result of a load (R74; spec/70_reset_and_hazards.md R242). -/
inductive LoadResult where
  /-- The bytes were copied. -/
  | ok
  /-- The sequence has more than 3584 bytes; nothing was copied. -/
  | romTooLarge
  deriving DecidableEq, Repr

/-- `MemLoad(bytes)` (R74): a sequence that is too long leaves memory as it was. -/
def Memory.load (m : Memory) (bytes : List Byte) : LoadResult × Memory :=
  if Config.maxProgram < bytes.length then (.romTooLarge, m)
  else (.ok, Memory.writeAll m Config.progBase bytes)

end Sys2Proof.Machine
end

