-- ==== Sys2Proof/Machine/Ops.lean ====
section
/-! DEFINITION. The named operations over the state (spec/00_scope.md R8): registers, memory, call stack,
recording a condition, timers, the wait state machine. Meanings are written over these. -/

namespace Sys2Proof.Machine

/-- What a meaning or a step answers. -/
abbrev Answer := Host.Outcome State Fault Refusal

/-! ### Registers -/

/-- `V[x]` (R8, spec/10_state.md R21). -/
def State.getV (s : State) (x : Nibble) : Byte := s.v[x.toNat]'x.isLt

/-- `V[x] <- b` (R8, R21). -/
def State.setV (s : State) (x : Nibble) (b : Byte) : State := { s with v := s.v.set x.toNat b x.isLt }

/-- `VF <- 1` or `0` (R23). -/
def State.setVF (s : State) (flag : Bool) : State := s.setV 0xF#4 (if flag then 1 else 0)

/-- A result with its flag: the result first, `VF` last (spec/43_alu.md R162, D8; notes/assumptions/4.md). -/
def State.setVFlag (s : State) (x : Nibble) (res : Byte) (flag : Bool) : State := (s.setV x res).setVF flag

/-- `pc <- t`, stored modulo 4096 (R8, R22). -/
def State.setPc (s : State) (t : Word) : State := { s with pc := wrap12 t }

/-- `npc = (pc + 2) mod 4096` (R8). -/
def State.npc (s : State) : Word := wrap12 (s.pc + 2)

/-- `pc <- npc`, how a non-branching rule ends (spec/40_step_cycle.md R123). -/
def State.advance (s : State) : State := s.setPc (s.pc + 2)

/-- `pc <- (npc + 2) mod 4096` if the skip is taken, else `pc <- npc` (spec/42_skips.md R144;
notes/assumptions/13.md). -/
def State.skipIf (s : State) (taken : Bool) : State :=
  if taken then s.setPc (s.npc + 2) else s.advance

/-- `I <- w`, stored modulo 4096 (R8, spec/10_state.md R24, D3). -/
def State.setI (s : State) (w : Word) : State := { s with i := wrap12 w }

/-- `DT <- b` (R28). -/
def State.setDt (s : State) (b : Byte) : State := { s with dt := b }

/-- `ST <- b` (R29). -/
def State.setSt (s : State) (b : Byte) : State := { s with st := b }

/-! ### Memory -/

/-- `MemRead(addr, 1)` (spec/20_memory.md R60, R61). -/
def State.memRead (s : State) (a : Word) : Byte := Memory.read s.mem (wrap12 a).toNat

/-- `MemWrite(addr, 1, b)` (spec/20_memory.md R60, R62). -/
def State.memWrite (s : State) (a : Word) (b : Byte) : State :=
  { s with mem := Memory.write s.mem (wrap12 a).toNat b }

/-! ### The call stack -/

/-- `Push(v)`, none where its `requires SP < 16` fails (spec/10_state.md R27, D4). -/
def State.push (s : State) (a : Word) : Option State :=
  if h : s.sp.val < 16 then
    some { s with stack := s.stack.set s.sp.val (wrap12 a) h, sp := ⟨s.sp.val + 1, by omega⟩ }
  else none

/-- `Pop()` with the state it leaves, none where its `requires SP > 0` fails (R27, D4). -/
def State.pop (s : State) : Option (Word × State) :=
  if h : 0 < s.sp.val then
    some (s.stack[s.sp.val - 1]'(by omega), { s with sp := ⟨s.sp.val - 1, by omega⟩ })
  else none

/-! ### Conditions -/

/-- `cond <- C` (R8, spec/60_exceptions.md R221). -/
def State.setCond (s : State) (c : Cond) : State := { s with cond := c }

/-- The whole effect of a condition, in place of the taking of a trap: `cond <- code ; pc <- npc`
(spec/60_exceptions.md R227). There is nothing to save, no vector and no return (R228). -/
def State.raise (s : State) (c : Cond) : State := (s.setCond c).advance

/-- `Execute(UNKNOWN)` (R224). -/
def State.executeUnknown (s : State) : State := s.raise .unknownOpcode

/-! ### Timers and the random source -/

/-- A timer one lower, floored at 0 (spec/47_timers.md R198). -/
def countDown (b : Byte) : Byte := if b = 0 then 0 else b - 1

/-- `TimerUpdate()` (R198; notes/assumptions/14.md). -/
def State.timerUpdate (s : State) : State := { s with dt := countDown s.dt, st := countDown s.st }

/-- `Rand()`: the byte drawn, a FREE VALUE, and the state with `RNG` advanced (spec/45_random.md R181, D26;
notes/assumptions/1.md). -/
def State.rand (s : State) : Byte × State := (Config.rngDraw s.rng, { s with rng := Config.rngNext s.rng })

/-! ### The blocking wait -/

/-- The entering of the wait by `Fx0A` (spec/48_keys_wait.md R207). -/
def State.enterWait (s : State) (x : Nibble) : State :=
  { s with wait := { s.wait with waiting := true, target := x, latched := false } }

/-- `CompleteWait()` (R211). -/
def State.completeWait (s : State) : State :=
  let t := (s.setV s.wait.target (s.wait.key.setWidth 8)).advance
  { t with wait := { t.wait with waiting := false, latched := false } }

/-- The part of a waiting step before the timers (R211, R212, spec/40_step_cycle.md R120). -/
def State.waitStep (s : State) : State := if s.wait.latched then s.completeWait else s

/-- Whether key number `k` is pressed; a number above 15 names no key and is not (R205, D18;
notes/assumptions/7.md). -/
def State.keyPressed (s : State) (k : Byte) : Bool :=
  if h : k.toNat < 16 then s.keys[k.toNat]'h else false

/-! ### Placing an opcode -/

/-- `s` with an opcode's two bytes stored where the next fetch reads them (spec/20_memory.md R64), and out of
the blocking wait, in which a step fetches nothing (R212). -/
def State.placeOpcode (s : State) (op : Word) : State :=
  let t := (s.memWrite s.pc (op.extractLsb' 8 8)).memWrite (s.pc + 1) (op.extractLsb' 0 8)
  { t with wait := { t.wait with waiting := false, latched := false } }

end Sys2Proof.Machine
end

