-- ==== Sys2Proof/Machine/Cycle.lean ====
section
/-! DEFINITION. The `Step` operation around the instructions' meanings (spec/40_step_cycle.md R120): the
fetch, the waiting step, the unknown opcode, the timers last. -/

namespace Sys2Proof.Machine

/-- The big-endian opcode at `pc` (R121; spec/20_memory.md R64). -/
def State.fetchOpcode (s : State) : Word := joinBytes (s.memRead s.pc) (s.memRead (s.pc + 1))

/-- The `TimerUpdate` that ends every step (spec/47_timers.md R198). -/
def finishStep : Answer → Answer
  | .next s => .next s.timerUpdate
  | .fault f => .fault f
  | .refused r => .refused r

/-- `Execute(decode(op))` (R122), with the meanings given as `ex`. -/
def executeOpcode (ex : Instr → State → Answer) (op : Word) (s : State) : Answer :=
  match decode op with
  | .ok i => ex i s
  | .error _ => .next s.executeUnknown

/-- `Step()` (R120), with the meanings given as `ex`. -/
def stepWith (ex : Instr → State → Answer) (s : State) : Answer :=
  let s0 := s.setCond .none
  finishStep (if s0.wait.waiting then .next s0.waitStep else executeOpcode ex s0.fetchOpcode s0)

end Sys2Proof.Machine
end

