-- ==== Sys2Proof/Machine/Flags.lean ====
section
/-! DEFINITION. Results and flags of the arithmetic, computed exactly on numbers and narrowed at the end
(spec/43_alu.md R161). `a` and `b` are the values read before anything is written. -/

namespace Sys2Proof.Machine

/-- `(a + b) mod 256` (R151, R156). -/
def sumByte (a b : Byte) : Byte := BitVec.ofNat 8 (a.toNat + b.toNat)
/-- The carry out of bit 7: `a + b >= 256` (R156). -/
def carryOut (a b : Byte) : Bool := decide (256 ≤ a.toNat + b.toNat)
/-- `(a - b) mod 256` (R157, R159). -/
def diffByte (a b : Byte) : Byte := BitVec.ofNat 8 (a.toNat + 256 - b.toNat)
/-- No borrow: `a >= b` (R157, R159, D9; notes/assumptions/4.md). -/
def noBorrow (a b : Byte) : Bool := decide (b.toNat ≤ a.toNat)
/-- `a >> 1`, that is `a div 2` (R158). -/
def halfByte (a : Byte) : Byte := BitVec.ofNat 8 (a.toNat / 2)
/-- The bit `SHR` shifts out, `a[0]` (R158). -/
def lowBit (a : Byte) : Bool := a.getLsbD 0
/-- `(2 * a) mod 256` (R160). -/
def doubleByte (a : Byte) : Byte := BitVec.ofNat 8 (2 * a.toNat)
/-- The bit `SHL` shifts out, `a[7]` (R160). -/
def highBit (a : Byte) : Bool := a.getLsbD 7

end Sys2Proof.Machine
end

