-- ==== Sys2Proof/Machine/Operands.lean ====
section
/-! DEFINITION. The operand forms (spec/30_encoding.md R93): the memory operand `[I + offset]`, the computed
target of `Bnnn`, the glyph address, and the decimal digits. -/

namespace Sys2Proof.Machine

/-- A 12-bit address field as a register value, no scaling and no sign (R92, R93). -/
def addrWord (nnn : Addr) : Word := nnn.setWidth 16

/-- An 8-bit register value as a 16-bit one: `zext_16` (spec/00_scope.md R7). -/
def byteWord (b : Byte) : Word := b.setWidth 16

/-- The address of the memory operand at a constant offset from `I`, before the wrap every access makes
(spec/44_index_memory.md, opening text; spec/20_memory.md R73). -/
def State.operandAddr (s : State) (k : Nat) : Word := s.i + BitVec.ofNat 16 k

/-- The byte at `I + k` (R73). -/
def State.operandByte (s : State) (k : Nat) : Byte := s.memRead (s.operandAddr k)

/-- The target of `Bnnn` before the modulo-4096 write (spec/41_control_flow.md R134, D14). -/
def State.offsetTarget (s : State) (nnn : Addr) : Word := addrWord nnn + byteWord (s.getV 0x0#4)

/-- `0x050 + 5 * d[3:0]`, the address of a digit's glyph (spec/44_index_memory.md R172, D16;
notes/assumptions/6.md). -/
def glyphAddr (d : Byte) : Word :=
  BitVec.ofNat 16 (Config.fontBase + Config.glyphBytes * (d.toNat % 16))

/-- `v div 100` (R173). -/
def bcdHundreds (b : Byte) : Byte := BitVec.ofNat 8 (b.toNat / 100)
/-- `(v div 10) mod 10` (R173). -/
def bcdTens (b : Byte) : Byte := BitVec.ofNat 8 (b.toNat / 10 % 10)
/-- `v mod 10` (R173). -/
def bcdOnes (b : Byte) : Byte := BitVec.ofNat 8 (b.toNat % 10)

/-- `for i in 0..n-1: MemWrite(I + i, 1, V[i])` (R174, D15; notes/assumptions/12.md). -/
def State.storeBlock (s : State) : Nat → State
  | 0 => s
  | n + 1 =>
    let t := s.storeBlock n
    t.memWrite (t.operandAddr n) (t.getV (BitVec.ofNat 4 n))

/-- `for i in 0..n-1: V[i] <- MemRead(I + i, 1)` (R175, D15; notes/assumptions/12.md). -/
def State.loadBlock (s : State) : Nat → State
  | 0 => s
  | n + 1 =>
    let t := s.loadBlock n
    t.setV (BitVec.ofNat 4 n) (t.operandByte n)

end Sys2Proof.Machine
end

