-- ==== Sys2Proof/Machine/Alu.lean ====
section
/-! DEFINITION. Register load, arithmetic, logic and shifts (spec/43_alu.md). Each ends with `pc <- npc`. -/

namespace Sys2Proof.Machine

/-- `LD Vx, byte` (R150). -/
def execLdImm (x : Nibble) (kk : Byte) (s : State) : Answer := .next (s.setV x kk).advance

/-- `ADD Vx, byte` (R151): `VF` is not changed by the carry (D12). -/
def execAddImm (x : Nibble) (kk : Byte) (s : State) : Answer := .next (s.setV x (sumByte (s.getV x) kk)).advance

/-- `LD Vx, Vy` (R152). -/
def execLdReg (x y : Nibble) (s : State) : Answer := .next (s.setV x (s.getV y)).advance

/-- `OR Vx, Vy` (R153): `VF` is left alone (D11). -/
def execOr (x y : Nibble) (s : State) : Answer := .next (s.setV x (s.getV x ||| s.getV y)).advance

/-- `AND Vx, Vy` (R154): `VF` is left alone (D11). -/
def execAnd (x y : Nibble) (s : State) : Answer := .next (s.setV x (s.getV x &&& s.getV y)).advance

/-- `XOR Vx, Vy` (R155): `VF` is left alone (D11). -/
def execXor (x y : Nibble) (s : State) : Answer := .next (s.setV x (s.getV x ^^^ s.getV y)).advance

/-- `ADD Vx, Vy` (R156): `VF` is the carry. -/
def execAddReg (x y : Nibble) (s : State) : Answer :=
  .next (s.setVFlag x (sumByte (s.getV x) (s.getV y)) (carryOut (s.getV x) (s.getV y))).advance

/-- `SUB Vx, Vy` (R157): `VF` is 1 if no borrow (D9). -/
def execSub (x y : Nibble) (s : State) : Answer :=
  .next (s.setVFlag x (diffByte (s.getV x) (s.getV y)) (noBorrow (s.getV x) (s.getV y))).advance

/-- `SHR Vx {, Vy}` (R158): `V[x]` in place; the second operand is ignored by the hardware
(spec/30_encoding.md R100, D10; notes/assumptions/5.md). -/
def execShr (x _y : Nibble) (s : State) : Answer :=
  .next (s.setVFlag x (halfByte (s.getV x)) (lowBit (s.getV x))).advance

/-- `SUBN Vx, Vy` (R159): `V[y] - V[x]`, `VF` is 1 if no borrow (D9). -/
def execSubn (x y : Nibble) (s : State) : Answer :=
  .next (s.setVFlag x (diffByte (s.getV y) (s.getV x)) (noBorrow (s.getV y) (s.getV x))).advance

/-- `SHL Vx {, Vy}` (R160): `V[x]` in place; the second operand is ignored by the hardware
(spec/30_encoding.md R100, D10; notes/assumptions/5.md). -/
def execShl (x _y : Nibble) (s : State) : Answer :=
  .next (s.setVFlag x (doubleByte (s.getV x)) (highBit (s.getV x))).advance

end Sys2Proof.Machine
end

