-- ==== Sys2Proof/Machine/Control.lean ====
section
/-! DEFINITION. Control flow (spec/41_control_flow.md). -/

namespace Sys2Proof.Machine

/-- `SYS addr` (R130, D7): an unknown opcode; `nnn` is ignored (notes/assumptions/3.md). -/
def execSys (_nnn : Addr) (s : State) : Answer := .next (s.raise .unknownOpcode)

/-- `RET` (R131). -/
def execRet (s : State) : Answer :=
  match s.pop with
  | some (a, t) => .next (t.setPc a)
  | none => .next (s.raise .stackUnderflow)

/-- `JP addr` (R132). -/
def execJp (nnn : Addr) (s : State) : Answer := .next (s.setPc (addrWord nnn))

/-- `CALL addr` (R133): it pushes `npc`. -/
def execCall (nnn : Addr) (s : State) : Answer :=
  match s.push s.npc with
  | some t => .next (t.setPc (addrWord nnn))
  | none => .next (s.raise .stackOverflow)

/-- `JP V0, addr` (R134, D14; notes/assumptions/15.md). -/
def execJpV0 (nnn : Addr) (s : State) : Answer := .next (s.setPc (s.offsetTarget nnn))

end Sys2Proof.Machine
end

