-- ==== Sys2Proof/Machine/Display.lean ====
section
/-! DEFINITION. The framebuffer XOR writer (spec/46_display.md). -/

namespace Sys2Proof.Machine

/-- `FB[y mod 32][x mod 64]`: coordinates wrap, they are never clipped (R187). -/
def pixelAt (fb : Framebuffer) (y x : Nat) : Bool :=
  (fb[y % 32]'(Nat.mod_lt _ (by decide)))[x % 64]'(Nat.mod_lt _ (by decide))

/-- `FB[y mod 32][x mod 64] ^ 1` (R187). -/
def flipPixel (fb : Framebuffer) (y x : Nat) : Framebuffer :=
  fb.set (y % 32)
    ((fb[y % 32]'(Nat.mod_lt _ (by decide))).set (x % 64) (!pixelAt fb y x) (Nat.mod_lt _ (by decide)))
    (Nat.mod_lt _ (by decide))

/-- The variables of `DRW`'s loop (R187). -/
structure Canvas where
  fb : Framebuffer
  collision : Bool
  changed : Bool
  deriving DecidableEq, Repr

/-- The loop body for one sprite bit (R187): a bit of 0 leaves its pixel alone. -/
def plot (c : Canvas) (y x : Nat) (bit : Bool) : Canvas :=
  if bit then
    { fb := flipPixel c.fb y x, collision := c.collision || pixelAt c.fb y x, changed := true }
  else c

/-- Bit `col` of a sprite byte counted from the left: bit 7 is the leftmost (R187, D19;
notes/assumptions/8.md). -/
def spriteBit (b : Byte) (col : Nat) : Bool := b.getLsbD (7 - col)

/-- Columns 0 to `n - 1` of one sprite row at display row `y`, from column `x` (R187). -/
def plotRow (c : Canvas) (y x : Nat) (b : Byte) : Nat → Canvas
  | 0 => c
  | n + 1 => plot (plotRow c y x b n) y (x + n) (spriteBit b n)

/-- Rows 0 to `n - 1` of the sprite at `I`, from column `x` and row `y` (R187). -/
def State.plotSprite (s : State) (x y : Nat) : Nat → Canvas
  | 0 => { fb := s.fb, collision := false, changed := false }
  | n + 1 => plotRow (s.plotSprite x y n) (y + n) x (s.operandByte n) 8

/-- `FB` and `redraw` from a finished drawing loop (R187). -/
def State.showCanvas (s : State) (c : Canvas) : State := { s with fb := c.fb, redraw := s.redraw || c.changed }

/-- All pixels 0 and `redraw <- 1` (R186). -/
def State.clearScreen (s : State) : State :=
  { s with fb := Vector.replicate 32 (Vector.replicate 64 false), redraw := true }

/-- `CLS` (R186). -/
def execCls (s : State) : Answer := .next s.clearScreen.advance

/-- `DRW Vx, Vy, nibble` (R187): both coordinates are read before `VF` is written. -/
def execDrw (x y n : Nibble) (s : State) : Answer :=
  let c := s.plotSprite (s.getV x).toNat (s.getV y).toNat n.toNat
  .next ((s.showCanvas c).setVF c.collision).advance

end Sys2Proof.Machine
end

