-- ==== Sys2Proof/Machine/Index.lean ====
section
/-! DEFINITION. Index register, font addressing, decimal digits and register blocks
(spec/44_index_memory.md). Each ends with `pc <- npc`; the three memory forms leave `I` (D15). -/

namespace Sys2Proof.Machine

/-- `LD I, addr` (R170). -/
def execLdI (nnn : Addr) (s : State) : Answer := .next (s.setI (addrWord nnn)).advance

/-- `ADD I, Vx` (R171): modulo 4096, `VF` untouched (D3, D13). -/
def execAddI (x : Nibble) (s : State) : Answer := .next (s.setI (s.i + byteWord (s.getV x))).advance

/-- `LD F, Vx` (R172, D16). -/
def execLdF (x : Nibble) (s : State) : Answer := .next (s.setI (glyphAddr (s.getV x))).advance

/-- `LD B, Vx` (R173): hundreds, tens, ones at `I`, `I + 1`, `I + 2`. -/
def execLdB (x : Nibble) (s : State) : Answer :=
  let b := s.getV x
  .next (((s.memWrite (s.operandAddr 0) (bcdHundreds b)).memWrite (s.operandAddr 1) (bcdTens b)).memWrite
    (s.operandAddr 2) (bcdOnes b)).advance

/-- `LD [I], Vx` (R174): `V[0]` to `V[x]`, `x + 1` registers. -/
def execStoreRegs (x : Nibble) (s : State) : Answer := .next (s.storeBlock (x.toNat + 1)).advance

/-- `LD Vx, [I]` (R175): `V[0]` to `V[x]`, `x + 1` registers. -/
def execLoadRegs (x : Nibble) (s : State) : Answer := .next (s.loadBlock (x.toNat + 1)).advance

end Sys2Proof.Machine
end

