-- ==== Sys2Proof/Machine/Keys.lean ====
section
/-! DEFINITION. Key skips and the key wait (spec/48_keys_wait.md). -/

namespace Sys2Proof.Machine

/-- `SKP Vx` (R205, D18). -/
def execSkp (x : Nibble) (s : State) : Answer := .next (s.skipIf (s.keyPressed (s.getV x)))

/-- `SKNP Vx` (R206, D18). -/
def execSknp (x : Nibble) (s : State) : Answer := .next (s.skipIf (!s.keyPressed (s.getV x)))

/-- `LD Vx, K` (R207): it enters the wait, and `pc` stays at this opcode. -/
def execLdVxK (x : Nibble) (s : State) : Answer := .next (s.enterWait x)

end Sys2Proof.Machine
end

