-- ==== Sys2Proof/Machine/Random.lean ====
section
/-! DEFINITION. Random byte generation (spec/45_random.md). -/

namespace Sys2Proof.Machine

/-- `RND Vx, byte` (R180): one draw, also where `kk` is 0. The draw is a FREE VALUE (notes/assumptions/1.md). -/
def execRnd (x : Nibble) (kk : Byte) (s : State) : Answer :=
  let (r, t) := s.rand
  .next (t.setV x (r &&& kk)).advance

end Sys2Proof.Machine
end

