-- ==== Sys2Proof/Machine/Timers.lean ====
section
/-! DEFINITION. The timer instructions (spec/47_timers.md). The step's own `TimerUpdate` follows each of them
(R198), in Machine/Cycle.lean. -/

namespace Sys2Proof.Machine

/-- `LD Vx, DT` (R195). -/
def execLdVxDt (x : Nibble) (s : State) : Answer := .next (s.setV x s.dt).advance

/-- `LD DT, Vx` (R196). -/
def execLdDtVx (x : Nibble) (s : State) : Answer := .next (s.setDt (s.getV x)).advance

/-- `LD ST, Vx` (R197). -/
def execLdStVx (x : Nibble) (s : State) : Answer := .next (s.setSt (s.getV x)).advance

end Sys2Proof.Machine
end

