-- ==== Sys2Proof/Machine/Step.lean ====
section
/-! DEFINITION. One step of the machine (spec/40_step_cycle.md R120), and a state with a given opcode placed
where the next step fetches. -/

namespace Sys2Proof.Machine

/-- The host operation `Step` (R120). -/
def step (s : State) : Host.Outcome State Fault Refusal := stepWith exec s

/-- `s` with the opcode table's word `w` as the next opcode to run. It stands for a program load
(notes/assumptions/10.md). -/
def State.withFetchWord (s : State) (nbits w : Nat) : State := s.placeOpcode (tableWord nbits w)

end Sys2Proof.Machine
end

