-- ==== Sys2Proof/Machine/HostOps.lean ====
section
/-! DEFINITION. What the host does to the machine between steps (spec/10_state.md R40) and what it observes
(R41). -/

namespace Sys2Proof.Machine

/-! ### Operations -/

/-- `Reset` (spec/70_reset_and_hazards.md R240): every field but `RNG` (D26). -/
def State.resetOp (s : State) : State := { State.reset with rng := s.rng }

/-- `LoadProgram(bytes)` (R242): `Reset` first, so a failed load leaves the reset state (C2, D29). -/
def State.loadProgram (s : State) (bytes : List Byte) : LoadResult × State :=
  let t := s.resetOp
  let (r, m) := Memory.load t.mem bytes
  (r, { t with mem := m })

/-- The key an integer names, none outside `0..15` (spec/48_keys_wait.md R209). -/
def keyOfInt (k : Int) : Option Nibble := if 0 ≤ k ∧ k ≤ 15 then some (BitVec.ofInt 4 k) else none

/-- `Key[k]` (spec/10_state.md R32). -/
def State.keyDown (s : State) (k : Nibble) : Bool := s.keys[k.toNat]'k.isLt

/-- `Key[k] <- b` (R32). -/
def State.setKey (s : State) (k : Nibble) (b : Bool) : State := { s with keys := s.keys.set k.toNat b k.isLt }

/-- `Latch(k)` (spec/48_keys_wait.md R210, D20, D21; notes/assumptions/7.md). -/
def State.latchKey (s : State) (k : Nibble) : State :=
  if s.wait.waiting && !s.wait.latched && !s.keyDown k then
    { s with wait := { s.wait with latched := true, key := k } }
  else s

/-- `Press(k)` (R209): the latch sees the key state as it was; a bad index is ignored. -/
def State.press (s : State) (k : Int) : State :=
  match keyOfInt k with
  | some j => (s.latchKey j).setKey j true
  | none => s

/-- `Release(k)` (R209): a bad index is ignored. -/
def State.release (s : State) (k : Int) : State :=
  match keyOfInt k with
  | some j => s.setKey j false
  | none => s

/-- `ConsumeRedraw` (spec/46_display.md R189). -/
def State.consumeRedraw (s : State) : State := { s with redraw := false }

/-- `Reseed(s)` (spec/45_random.md R182); a seed is a number (notes/assumptions/1.md). -/
def State.reseed (s : State) (seed : Nat) : State := { s with rng := Config.rngSeed seed }

/-- The seven host operations (R40). -/
inductive HostOp where
  | reset
  | loadProgram (bytes : List Byte)
  | step
  | press (k : Int)
  | release (k : Int)
  | consumeRedraw
  | reseed (seed : Nat)
  deriving DecidableEq, Repr

/-- The state one host operation leaves (spec/00_scope.md R9): `Step` is the machine's step. -/
def applyOp (o : HostOp) (s : State) : Answer :=
  match o with
  | .reset => .next s.resetOp
  | .loadProgram bytes => .next (s.loadProgram bytes).2
  | .step => step s
  | .press k => .next (s.press k)
  | .release k => .next (s.release k)
  | .consumeRedraw => .next s.consumeRedraw
  | .reseed seed => .next (s.reseed seed)

/-- A finite run: the host's operations one after the other (R9; notes/assumptions/17.md). -/
def runOps : List HostOp → State → Answer
  | [], s => .next s
  | o :: os, s =>
    match applyOp o s with
    | .next t => runOps os t
    | .fault f => .fault f
    | .refused r => .refused r

/-! ### Observations -/

/-- `NeedsRedraw` (R41). -/
def State.needsRedraw (s : State) : Bool := s.redraw

/-- `PixelSnapshot` (R41; spec/46_display.md R190): the rows one after the other. -/
def State.pixelSnapshot (s : State) : List Bool := s.fb.toList.flatMap fun row => row.toList

/-- `Width` (R41). -/
def displayWidth : Nat := Config.displayWidth

/-- `Height` (R41). -/
def displayHeight : Nat := Config.displayHeight

/-- `SoundTimer` (R41). -/
def State.soundTimer (s : State) : Byte := s.st

/-- Whether a tone sounds, in the spec's reading of the host's part (R41, D31; notes/assumptions/18.md). -/
def State.toneOn (s : State) : Bool := s.soundTimer != 0

/-- The 2-bit code of a condition (spec/10_state.md R35, D23). -/
def condCode : Cond → BitVec 2
  | .none => 0
  | .stackOverflow => 1
  | .stackUnderflow => 2
  | .unknownOpcode => 3

/-- `Cond` (R41). -/
def State.condObserved (s : State) : BitVec 2 := condCode s.cond

/-- `ReadByte(a)`, `MEM[a mod 4096]` (R41). -/
def State.readByte (s : State) (a : Nat) : Byte := Memory.read s.mem (a % Config.memSize)

end Sys2Proof.Machine
end

