-- ==== Sys2Proof/Safety.lean ====
section
/-! DEFINITION. The terms the statements use: what a state keeps, where a step leaves `pc`, which instruction
a step runs and which registers it may write, the invariant of spec/10_state.md R39, and the end of a run. -/

namespace Sys2Proof.Safety

open Sys2Proof.Machine

/-- The pieces of state of spec/10_state.md R20. -/
inductive Part where
  | v | pc | i | stack | sp | dt | st | wait | keys | fb | redraw | cond | rng | mem
  deriving DecidableEq, Repr

/-- One piece of state is the same before and after: every register, every byte of memory. -/
def Part.Same (p : Part) (s t : State) : Prop :=
  match p with
  | .v => ∀ r, t.getV r = s.getV r
  | .pc => t.pc = s.pc
  | .i => t.i = s.i
  | .stack => t.stack = s.stack
  | .sp => t.sp = s.sp
  | .dt => t.dt = s.dt
  | .st => t.st = s.st
  | .wait => t.wait = s.wait
  | .keys => t.keys = s.keys
  | .fb => t.fb = s.fb
  | .redraw => t.redraw = s.redraw
  | .cond => t.cond = s.cond
  | .rng => t.rng = s.rng
  | .mem => ∀ a, t.memRead a = s.memRead a

/-- Every piece of state outside the list is the same before and after: the frame of an operation. -/
def KeepsAllBut (ps : List Part) (s t : State) : Prop := ∀ p, p ∉ ps → p.Same s t

/-- `pc` holds the number `a` modulo 4096 (R22). -/
def GoesTo (t : State) (a : Nat) : Prop := t.pc.toNat = a % 4096

/-- Two addresses name one byte of memory (spec/20_memory.md R60). -/
def SameByte (a b : Word) : Prop := a.toNat % 4096 = b.toNat % 4096

/-- The instruction a step of `s` executes, none while waiting or at an unknown opcode
(spec/40_step_cycle.md R120, R122). -/
def stepInstr (s : State) : Option Instr :=
  if s.wait.waiting then none
  else
    match decode s.fetchOpcode with
    | .ok i => some i
    | .error _ => none

/-- The registers an instruction may write, `VF` as a side effect among them (spec/10_state.md R21, R23). -/
def mayWriteReg (i : Instr) (r : Nibble) : Bool :=
  match i with
  | .ldImm x _ | .addImm x _ | .rnd x _ => r == x
  | .ldReg x _ | .orReg x _ | .andReg x _ | .xorReg x _ => r == x
  | .addReg x _ | .sub x _ | .shr x _ | .subn x _ | .shl x _ => r == x || r == 0xF#4
  | .drw _ _ _ => r == 0xF#4
  | .ldVxDt x => r == x
  | .loadRegs x => decide (r.toNat ≤ x.toNat)
  | .sys _ | .cls | .ret | .jp _ | .call _ | .jpV0 _ | .ldI _ => false
  | .seImm _ _ | .sneImm _ _ | .seReg _ _ | .sneReg _ _ | .skp _ | .sknp _ => false
  | .ldVxK _ | .ldDtVx _ | .ldStVx _ | .addI _ | .ldF _ | .ldB _ | .storeRegs _ => false

/-- The invariant of R39, with the canonical form of memory. `SP <= 16` and the 8-bit bounds hold by the
types of their fields. -/
def LegalState (s : State) : Prop :=
  s.pc.toNat < 4096 ∧ s.i.toNat < 4096 ∧
  (∀ k : Fin 16, (s.stack[k.val]).toNat < 4096) ∧
  (s.wait.waiting = false → s.wait.latched = false) ∧
  Memory.wf s.mem = true

/-- The customary end of a run: `pc` is at a jump to itself (spec/70_reset_and_hazards.md R247, D30: the
spec's recommended convention, no behaviour of the machine; notes/assumptions/18.md). -/
def Finished (s : State) : Prop := ∃ nnn, stepInstr s = some (.jp nnn) ∧ addrWord nnn = s.pc

end Sys2Proof.Safety
end

