-- ==== Sys2Proof/Certificates/Slice0/Obligations.lean ====
section
/-! DEFINITION. The statements for the provers, from the numbered rules of spec/. `exec` is one instruction's
own effect; the step adds clearing `COND` before it and the timers after it. -/

open Sys2Proof Sys2Proof.Machine Sys2Proof.Safety

/-! ### Encoding -/

/-- R95: the three opcodes the document itself shows. -/
def Obligations.ConfirmedOpcodesDecode : Prop :=
  decodeBytes [0x60, 0x05] = .ok (.ldImm 0 0x05, []) ∧
  decodeBytes [0xA2, 0x00] = .ok (.ldI 0x200, []) ∧
  decodeBytes [0xD0, 0x05] = .ok (.drw 0 0 5, [])

/-- One opcode of each family, by the table of spec/30_encoding.md section 3 (D5). -/
def Obligations.FamilyOpcodesDecode : Prop :=
  decode 0x0123 = .ok (.sys 0x123) ∧ decode 0x00E0 = .ok .cls ∧ decode 0x00EE = .ok .ret ∧
  decode 0xBFFF = .ok (.jpV0 0xFFF) ∧ decode 0x9120 = .ok (.sneReg 1 2) ∧
  decode 0x8125 = .ok (.sub 1 2) ∧ decode 0xF133 = .ok (.ldB 1) ∧ decode 0xC10F = .ok (.rnd 1 0x0F) ∧
  decode 0xF118 = .ok (.ldStVx 1) ∧ decode 0xE1A1 = .ok (.sknp 1) ∧ decode 0xF30A = .ok (.ldVxK 3)

/-- Decoding the bytes of a well-formed instruction gives it back, with the bytes after it: no bit of an
encoding is dropped (spec/30_encoding.md sections 1 to 3, D5, D6). -/
def Obligations.DecodeEncodeRoundTrip : Prop :=
  ∀ i, WellFormed i = true → ∀ rest, decodeBytes (encodeBytes i ++ rest) = .ok (i, rest)

/-- An opcode that decodes is the encoding of what it decodes to, and that is well-formed: every opcode has at
most one meaning and every bit of it is accounted for (D5, D6). -/
def Obligations.EncodeDecodeRoundTrip : Prop :=
  ∀ op i, decode op = .ok i → encode i = op ∧ WellFormed i = true

/-- The unknown space as spec/30_encoding.md section 4 lists it, leading nibble 0 apart, which is `SYS`
(D6, D7). -/
def Obligations.UnknownSpaceAsListed : Prop :=
  ∀ op : Word, (∃ r, decode op = .error r) ↔
    (op.toNat / 4096 = 0x5 ∧ op.toNat % 16 ≠ 0) ∨
    (op.toNat / 4096 = 0x8 ∧ op.toNat % 16 ∈ [0x8, 0x9, 0xA, 0xB, 0xC, 0xD, 0xF]) ∨
    (op.toNat / 4096 = 0x9 ∧ op.toNat % 16 ≠ 0) ∨
    (op.toNat / 4096 = 0xE ∧ op.toNat % 256 ∉ [0x9E, 0xA1]) ∨
    (op.toNat / 4096 = 0xF ∧
      op.toNat % 256 ∉ [0x07, 0x0A, 0x15, 0x18, 0x1E, 0x29, 0x33, 0x55, 0x65])

/-! ### Memory and fetch -/

/-- R61, R62: addresses are taken modulo 4096, a read gives the byte last written, no byte is protected. -/
def Obligations.MemoryReadsLastWrite : Prop :=
  ∀ (s : State) (a b : Word) (w : Byte),
    (SameByte a b → (s.memWrite a w).memRead b = w) ∧
    (¬ SameByte a b → (s.memWrite a w).memRead b = s.memRead b) ∧
    s.memRead b = s.readByte b.toNat ∧
    KeepsAllBut [.mem] s (s.memWrite a w)

/-- R64, R121, and R73 for the two bytes of an opcode: big-endian, the second address wrapped. -/
def Obligations.FetchIsBigEndian : Prop :=
  ∀ s : State, s.fetchOpcode.toNat =
    256 * (s.readByte s.pc.toNat).toNat + (s.readByte (s.pc.toNat + 1)).toNat

/-- An opcode placed at `pc` by `withFetchWord` is what the next step fetches and runs. Placing is the model's own
operation (notes/assumptions/10.md, DEDUCED): it stores the table's word big-endian at `pc` and leaves the key wait,
since a waiting step fetches nothing (R212). That a store reaches the next fetch is the spec's derivation in R72. -/
def Obligations.PlacedOpcodeIsFetched : Prop :=
  ∀ (s : State) (w : Nat), w < 65536 →
    (s.withFetchWord 16 w).fetchOpcode.toNat = w ∧ stepInstr (s.withFetchWord 16 w) = decodeTableWord 16 w

/-! ### The step -/

/-- A running step whose opcode decodes is `exec` of the decoded instruction, `COND` cleared before and the
timers updated after it (R120, R122). -/
def Obligations.StepRunsDecodedInstruction : Prop :=
  ∀ (s : State) (i : Instr), s.wait.waiting = false → decode s.fetchOpcode = .ok i →
    step s =
      match exec i (s.setCond .none) with
      | .next t => .next t.timerUpdate
      | .fault f => .fault f
      | .refused r => .refused r

/-- R224: an unknown opcode, and `SYS`, record `UnknownOpcode`, advance by 2 and change nothing else but the
timers of the step. -/
def Obligations.UnknownOpcodeIsNoop : Prop :=
  ∀ s : State, s.wait.waiting = false →
    ((∃ r, decode s.fetchOpcode = .error r) ∨ ∃ nnn, decode s.fetchOpcode = .ok (.sys nnn)) →
    ∃ t, step s = .next t ∧ t.cond = .unknownOpcode ∧ GoesTo t (s.pc.toNat + 2) ∧
      KeepsAllBut [.pc, .cond, .dt, .st] s t

/-- R212: a waiting step with no key latched changes nothing but `COND` and the timers. -/
def Obligations.WaitingStepMovesTimersOnly : Prop :=
  ∀ s : State, s.wait.waiting = true → s.wait.latched = false →
    ∃ t, step s = .next t ∧ t.cond = .none ∧ t.pc = s.pc ∧
      t.dt.toNat = s.dt.toNat - 1 ∧ t.st.toNat = s.st.toNat - 1 ∧ KeepsAllBut [.cond, .dt, .st] s t

/-- The completing step (spec/48_keys_wait.md section 3; D20: the key stays latched until this step). -/
def Obligations.CompletingStepStoresKey : Prop :=
  ∀ s : State, s.wait.waiting = true → s.wait.latched = true →
    ∃ t, step s = .next t ∧ t.cond = .none ∧ GoesTo t (s.pc.toNat + 2) ∧
      (t.getV s.wait.target).toNat = s.wait.key.toNat ∧ (∀ r, r ≠ s.wait.target → t.getV r = s.getV r) ∧
      t.wait = { s.wait with waiting := false, latched := false } ∧
      t.dt.toNat = s.dt.toNat - 1 ∧ t.st.toNat = s.st.toNat - 1 ∧
      KeepsAllBut [.v, .pc, .wait, .cond, .dt, .st] s t

/-- Every instruction has an effect in every state, and after any run of host operations the machine can be
stepped again (spec/60_exceptions.md section 4). -/
def Obligations.MachineStaysSteppable : Prop :=
  (∀ i s, ∃ t, exec i s = .next t) ∧ ∀ ops s, ∃ t, runOps ops s = .next t

/-- `TimerUpdate` does the two decrements and nothing else (R198); a step runs it once, last (D22,
notes/assumptions/14.md), and so after the load of `Fx15` or `Fx18` in that same step (the spec's own derivation in
R196, R197); a reset and a load clear the timers (R240, R242) and no other host operation moves them. -/
def Obligations.TimersFallByOnePerStep : Prop :=
  (∀ s : State, s.timerUpdate.dt.toNat = s.dt.toNat - 1 ∧ s.timerUpdate.st.toNat = s.st.toNat - 1 ∧
    KeepsAllBut [.dt, .st] s s.timerUpdate) ∧
  (∀ s t : State, step s = .next t →
    t.dt.toNat = (match stepInstr s with
      | some (.ldDtVx x) => (s.getV x).toNat
      | _ => s.dt.toNat) - 1 ∧
    t.st.toNat = (match stepInstr s with
      | some (.ldStVx x) => (s.getV x).toNat
      | _ => s.st.toNat) - 1) ∧
  (∀ (s : State) (bytes : List Byte), s.resetOp.dt = 0 ∧ s.resetOp.st = 0 ∧
    (s.loadProgram bytes).2.dt = 0 ∧ (s.loadProgram bytes).2.st = 0) ∧
  ∀ (o : HostOp) (s t : State), o ≠ .step → o ≠ .reset → (∀ bytes, o ≠ .loadProgram bytes) →
    applyOp o s = .next t → t.dt = s.dt ∧ t.st = s.st

/-- What each of the three kinds of step may change, and what no step changes (R125). That `RND` advances `RNG` by
`Config.rngNext` is the model's free generator (notes/assumptions/1.md, DESIGN CHOICE; R181, D26). -/
def Obligations.StepChangesInTotal : Prop :=
  ∀ s t : State, step s = .next t →
    (∀ i u, stepInstr s = some i → exec i (s.setCond .none) = .next u →
      KeepsAllBut [.pc, .cond, .dt, .st] u t) ∧
    (s.wait.waiting = false → stepInstr s = none → KeepsAllBut [.pc, .cond, .dt, .st] s t) ∧
    (s.wait.waiting = true → s.wait.latched = false →
      t.cond = .none ∧ KeepsAllBut [.cond, .dt, .st] s t) ∧
    (s.wait.waiting = true → s.wait.latched = true →
      (∀ r, r ≠ s.wait.target → t.getV r = s.getV r) ∧ KeepsAllBut [.v, .pc, .wait, .cond, .dt, .st] s t) ∧
    t.keys = s.keys ∧
    (match stepInstr s with
      | some (.rnd _ _) => t.rng = Config.rngNext s.rng
      | _ => t.rng = s.rng)

/-- The condition a step records, by its code (spec/60_exceptions.md section 1; D23: the register and its codes
are the spec's own choice). -/
def Obligations.ConditionOfEachStep : Prop :=
  ∀ s t : State, step s = .next t →
    t.condObserved =
      if s.wait.waiting then 0
      else match decode s.fetchOpcode with
        | .error _ => 3
        | .ok (.sys _) => 3
        | .ok (.call _) => if s.sp.val = 16 then 1 else 0
        | .ok .ret => if s.sp.val = 0 then 2 else 0
        | .ok _ => 0

/-! ### Who writes what, over all instructions -/

/-- A step writes only the registers spec/10_state.md sections 2 and 4 list for its instruction; a completing
step writes the wait's target (D8, D11 to D13: `VF` is no side effect of the others). -/
def Obligations.RegistersWrittenOnlyAsListed : Prop :=
  ∀ s t : State, step s = .next t → ∀ r,
    (∀ i, stepInstr s = some i → mayWriteReg i r = false) →
    (s.wait.waiting = true → s.wait.latched = true → r ≠ s.wait.target) → t.getV r = s.getV r

/-- Only `CALL` writes the stack, only `CALL` and `RET` move `SP` (R25, R30). -/
def Obligations.StackChangedOnlyByCallAndRet : Prop :=
  ∀ s t : State, step s = .next t → (∀ nnn, stepInstr s ≠ some (.call nnn)) →
    t.stack = s.stack ∧ (stepInstr s ≠ some .ret → t.sp = s.sp)

/-- In a step only `CLS` and `DRW` touch the display or set the redraw flag, and no step clears the flag
(R33, R34, R185). -/
def Obligations.DisplayChangedOnlyByClsAndDrw : Prop :=
  ∀ s t : State, step s = .next t →
    (s.redraw = true → t.redraw = true) ∧
    (stepInstr s ≠ some .cls → (∀ x y n, stepInstr s ≠ some (.drw x y n)) →
      t.fb = s.fb ∧ t.redraw = s.redraw)

/-- In a step only `Fx33` and `Fx55` write memory (R63), only `Annn`, `Fx1E` and `Fx29` write `I` (R24), and
`WAIT` changes only by `Fx0A` and by the completing step (R208). -/
def Obligations.MemoryIndexAndWaitWriters : Prop :=
  ∀ s t : State, step s = .next t →
    ((∀ x, stepInstr s ≠ some (.ldB x)) → (∀ x, stepInstr s ≠ some (.storeRegs x)) →
      ∀ a, t.memRead a = s.memRead a) ∧
    ((∀ nnn, stepInstr s ≠ some (.ldI nnn)) → (∀ x, stepInstr s ≠ some (.addI x)) →
      (∀ x, stepInstr s ≠ some (.ldF x)) → t.i = s.i) ∧
    ((∀ x, stepInstr s ≠ some (.ldVxK x)) → (s.wait.waiting = true → s.wait.latched = false) →
      t.wait = s.wait)

/-- `ST`, `redraw` and `COND` are for the host only: no instruction's effect on anything else depends on them
(R29, R34, R35). -/
def Obligations.HostOnlyStateIsNeverRead : Prop :=
  ∀ (i : Instr) (s t : State) (st : Byte) (redraw : Bool) (cond : Cond), exec i s = .next t →
    ∃ st' redraw' cond',
      exec i { s with st := st, redraw := redraw, cond := cond } =
        .next { t with st := st', redraw := redraw', cond := cond' }

/-! ### The invariant -/

/-- Every step keeps the invariant of spec/10_state.md section 8 (R39, which the spec marks as its own
derivation) with the canonical form of memory, from every state that has it. -/
def Obligations.StepKeepsInvariant : Prop :=
  ∀ s t : State, LegalState s → step s = .next t → LegalState t

/-- The state after reset has the invariant. -/
def Obligations.ResetMeetsInvariant : Prop := LegalState State.reset

/-- Every host operation keeps the invariant, and so every state the host can reach from reset by any sequence
of operations has it. -/
def Obligations.ReachableStatesMeetInvariant : Prop :=
  (∀ (o : HostOp) (s t : State), LegalState s → applyOp o s = .next t → LegalState t) ∧
  ∀ (ops : List HostOp) (t : State), runOps ops State.reset = .next t → LegalState t

/-! ### Reset, load and the host's operations -/

/-- The state after `Reset` (spec/10_state.md section 10; D17, D20, D23, D24, D25, D26 fix the font bytes, the
latch fields, `COND`, `redraw`, the stack entries and that `RNG` stays). That power-on is a reset is D27
(notes/assumptions/10.md). The 80 bytes are the table of R66, from general knowledge (D17,
notes/assumptions/2.md). -/
def Obligations.ResetValues : Prop :=
  State.reset.resetOp = State.reset ∧
  ∀ s : State,
    (∀ r, s.resetOp.getV r = 0) ∧ s.resetOp.i = 0 ∧ s.resetOp.pc.toNat = 0x200 ∧ s.resetOp.sp.val = 0 ∧
    (∀ k (h : k < 16), s.resetOp.stack[k] = 0) ∧ s.resetOp.dt = 0 ∧ s.resetOp.st = 0 ∧
    s.resetOp.wait = { waiting := false, target := 0, latched := false, key := 0 } ∧
    (∀ k, s.resetOp.keyDown k = false) ∧ (∀ y x, pixelAt s.resetOp.fb y x = false) ∧
    s.resetOp.redraw = true ∧ s.resetOp.condObserved = 0 ∧ s.resetOp.rng = s.rng ∧
    (∀ a < 4096, a < 0x050 ∨ 0x0A0 ≤ a → s.resetOp.readByte a = 0) ∧
    (List.range 80).map (fun j => s.resetOp.readByte (0x050 + j)) = (
      [0xF0, 0x90, 0x90, 0x90, 0xF0,
       0x20, 0x60, 0x20, 0x20, 0x70,
       0xF0, 0x10, 0xF0, 0x80, 0xF0,
       0xF0, 0x10, 0xF0, 0x10, 0xF0,
       0x90, 0x90, 0xF0, 0x10, 0x10,
       0xF0, 0x80, 0xF0, 0x10, 0xF0,
       0xF0, 0x80, 0xF0, 0x90, 0xF0,
       0xF0, 0x10, 0x20, 0x40, 0x40] ++
      [0xF0, 0x90, 0xF0, 0x90, 0xF0,
       0xF0, 0x90, 0xF0, 0x10, 0xF0,
       0xF0, 0x90, 0xF0, 0x90, 0x90,
       0xE0, 0x90, 0xE0, 0x90, 0xE0,
       0xF0, 0x80, 0x80, 0x80, 0xF0,
       0xE0, 0x90, 0x90, 0x90, 0xE0,
       0xF0, 0x80, 0xF0, 0x80, 0xF0,
       0xF0, 0x80, 0xF0, 0x80, 0x80])

/-- R243: the document's two load properties. -/
def Obligations.LoadedProgramReadsBack : Prop :=
  ∀ (s : State) (bytes : List Byte),
    (bytes.length ≤ 3584 → ∀ k (h : k < bytes.length),
      (s.loadProgram bytes).2.readByte (0x200 + k) = bytes[k]) ∧
    (3584 < bytes.length → (s.loadProgram bytes).1 = .romTooLarge ∧
      ∀ a, (s.loadProgram bytes).2.readByte a = State.reset.readByte a)

/-- `LoadProgram` whole (spec/70_reset_and_hazards.md section 2; D28: length 0 is accepted, D29: a failed load
leaves the reset state; notes/assumptions/10.md). -/
def Obligations.LoadProgramResetsThenCopies : Prop :=
  ∀ (s : State) (bytes : List Byte),
    (bytes.length ≤ 3584 → (s.loadProgram bytes).1 = .ok ∧
      KeepsAllBut [.mem] s.resetOp (s.loadProgram bytes).2 ∧
      (∀ k (h : k < bytes.length), (s.loadProgram bytes).2.readByte (0x200 + k) = bytes[k]) ∧
      ∀ a < 4096, a < 0x200 ∨ 0x200 + bytes.length ≤ a →
        (s.loadProgram bytes).2.readByte a = s.resetOp.readByte a) ∧
    (3584 < bytes.length → s.loadProgram bytes = (.romTooLarge, s.resetOp))

/-- R209: key events; a bad index is ignored, a repeated event changes nothing, the latch (for which see
`LatchTakesFirstPress`) sees the key as it was. -/
def Obligations.PressAndReleaseKeys : Prop :=
  ∀ (s : State) (k : Int),
    (¬ (0 ≤ k ∧ k ≤ 15) → s.press k = s ∧ s.release k = s) ∧
    (∀ j : Nibble, k = j.toNat →
      (s.press k).keyDown j = true ∧ (s.release k).keyDown j = false ∧
      (∀ j', j' ≠ j → (s.press k).keyDown j' = s.keyDown j' ∧ (s.release k).keyDown j' = s.keyDown j') ∧
      (s.press k).wait = (s.latchKey j).wait ∧
      (s.keyDown j = true → s.press k = s) ∧ (s.keyDown j = false → s.release k = s)) ∧
    KeepsAllBut [.keys, .wait] s (s.press k) ∧ KeepsAllBut [.keys] s (s.release k)

/-- The key latch (spec/48_keys_wait.md section 3): the first press, while waiting, of a key that was up (D20,
D21). -/
def Obligations.LatchTakesFirstPress : Prop :=
  ∀ (s : State) (j : Nibble),
    (s.press j.toNat).wait =
      if s.wait.waiting = true ∧ s.wait.latched = false ∧ s.keyDown j = false
      then { s.wait with latched := true, key := j } else s.wait

/-- The document's wait property (spec/95_test_vectors.md S5; D20, D21): after `Fx0A` any number of steps leaves
`pc`, then a press and one step store the key and advance `pc` by 2. -/
def Obligations.KeyWaitEndsByPressThenStep : Prop :=
  ∀ (s : State) (x j : Nibble) (n : Nat), stepInstr s = some (.ldVxK x) → s.keyDown j = false →
    ∃ u, runOps (List.replicate (n + 1) .step) s = .next u ∧ u.pc = s.pc ∧ u.wait.waiting = true ∧
      (∀ r, u.getV r = s.getV r) ∧
      ∃ t, runOps [.press j.toNat, .step] u = .next t ∧ (t.getV x).toNat = j.toNat ∧
        GoesTo t (s.pc.toNat + 2) ∧ t.wait.waiting = false

/-- R189. -/
def Obligations.ConsumeRedrawClearsFlagOnly : Prop :=
  ∀ s : State, s.consumeRedraw.needsRedraw = false ∧ KeepsAllBut [.redraw] s s.consumeRedraw

/-- R190: the snapshot is row-major, 2048 elements. -/
def Obligations.SnapshotIsRowMajor : Prop :=
  ∀ s : State, s.pixelSnapshot.length = 2048 ∧
    ∀ k < 2048, s.pixelSnapshot[k]? = some (pixelAt s.fb (k / 64) (k % 64))

/-- After `Reseed` the draws depend on the seed alone, and nothing else is changed (spec/45_random.md, D26). -/
def Obligations.ReseedFixesDraws : Prop :=
  ∀ (s s' t t' : State) (seed : Nat) (x : Nibble) (kk : Byte), KeepsAllBut [.rng] s (s.reseed seed) ∧
    (exec (.rnd x kk) (s.reseed seed) = .next t → exec (.rnd x kk) (s'.reseed seed) = .next t' →
      t.getV x = t'.getV x ∧ t.rng = t'.rng)

/-- The customary end of a run (spec/70_reset_and_hazards.md section 6, D30): a jump to itself stays, and only
the timers and `COND` move. -/
def Obligations.FinishedRunStaysFinished : Prop :=
  ∀ s : State, Finished s → ∃ t, step s = .next t ∧ Finished t ∧ t.cond = .none ∧
    t.dt.toNat = s.dt.toNat - 1 ∧ t.st.toNat = s.st.toNat - 1 ∧ KeepsAllBut [.dt, .st, .cond] s t

/-! ### Control flow and skips -/

/-- `SYS` (spec/41_control_flow.md; D7: executed as an unknown opcode). -/
def Obligations.SysRecordsUnknownOpcode : Prop :=
  ∀ (s : State) (nnn : Addr), ∃ t, exec (.sys nnn) s = .next t ∧ t.cond = .unknownOpcode ∧
    GoesTo t (s.pc.toNat + 2) ∧ KeepsAllBut [.pc, .cond] s t

/-- R131: `RET` pops, or finds the stack empty and is dropped. -/
def Obligations.RetPopsOrUnderflows : Prop :=
  ∀ s : State,
    (∀ k (h : k < 16), s.sp.val = k + 1 → ∃ t, exec .ret s = .next t ∧
      GoesTo t (s.stack[k]).toNat ∧ t.sp.val = k ∧ KeepsAllBut [.pc, .sp] s t) ∧
    (s.sp.val = 0 → ∃ t, exec .ret s = .next t ∧ t.cond = .stackUnderflow ∧
      GoesTo t (s.pc.toNat + 2) ∧ KeepsAllBut [.pc, .cond] s t)

/-- R132 and the jump by `V[0]` (spec/41_control_flow.md, `JP V0, addr`; D14: the register is `V0`). -/
def Obligations.JumpsGoToTarget : Prop :=
  ∀ (s : State) (nnn : Addr),
    (∃ t, exec (.jp nnn) s = .next t ∧ GoesTo t nnn.toNat ∧ KeepsAllBut [.pc] s t) ∧
    (∃ t, exec (.jpV0 nnn) s = .next t ∧ GoesTo t (nnn.toNat + (s.getV 0x0#4).toNat) ∧ KeepsAllBut [.pc] s t)

/-- R133: `CALL` pushes the address after it, or finds sixteen entries and is dropped. -/
def Obligations.CallPushesOrOverflows : Prop :=
  ∀ (s : State) (nnn : Addr),
    (∀ k (h : k < 16), s.sp.val = k → ∃ t, exec (.call nnn) s = .next t ∧
      GoesTo t nnn.toNat ∧ (t.stack[k]).toNat = (s.pc.toNat + 2) % 4096 ∧
      (∀ j (hj : j < 16), j ≠ k → t.stack[j] = s.stack[j]) ∧ t.sp.val = k + 1 ∧
      KeepsAllBut [.pc, .sp, .stack] s t) ∧
    (s.sp.val = 16 → ∃ t, exec (.call nnn) s = .next t ∧ t.cond = .stackOverflow ∧
      GoesTo t (s.pc.toNat + 2) ∧ KeepsAllBut [.pc, .cond] s t)

/-- The document's property of a `CALL` followed by a `RET` (spec/95_test_vectors.md S4, C6): execution resumes
after the call site, at every depth from 0 to 15 before the call; of the stack only the entry the call pushed may
differ. -/
def Obligations.RetReturnsAfterCallSite : Prop :=
  ∀ (s t : State) (nnn : Addr), s.sp.val < 16 → exec (.call nnn) s = .next t →
    ∃ u, exec .ret t = .next u ∧ GoesTo u (s.pc.toNat + 2) ∧ u.sp = s.sp ∧
      (∀ j (hj : j < 16), j ≠ s.sp.val → u.stack[j] = s.stack[j]) ∧ KeepsAllBut [.pc, .stack] s u

/-- `SE` and `SNE` with a byte (R140, R141; that a skip passes one 2-byte instruction is
spec/42_skips.md's own, from general knowledge). -/
def Obligations.SkipsOnByte : Prop :=
  ∀ (s : State) (x : Nibble) (kk : Byte),
    (∃ t, exec (.seImm x kk) s = .next t ∧ KeepsAllBut [.pc] s t ∧
      GoesTo t (s.pc.toNat + if (s.getV x).toNat = kk.toNat then 4 else 2)) ∧
    (∃ t, exec (.sneImm x kk) s = .next t ∧ KeepsAllBut [.pc] s t ∧
      GoesTo t (s.pc.toNat + if (s.getV x).toNat = kk.toNat then 2 else 4))

/-- `SE` and `SNE` with a register (R142, R143; the size of the skip as in `SkipsOnByte`). -/
def Obligations.SkipsOnRegister : Prop :=
  ∀ (s : State) (x y : Nibble),
    (∃ t, exec (.seReg x y) s = .next t ∧ KeepsAllBut [.pc] s t ∧
      GoesTo t (s.pc.toNat + if (s.getV x).toNat = (s.getV y).toNat then 4 else 2)) ∧
    (∃ t, exec (.sneReg x y) s = .next t ∧ KeepsAllBut [.pc] s t ∧
      GoesTo t (s.pc.toNat + if (s.getV x).toNat = (s.getV y).toNat then 2 else 4))

/-- `SKP` and `SKNP` (spec/48_keys_wait.md section 2; D18: a value above 15 names no key and reads as not
pressed). -/
def Obligations.SkipsOnKey : Prop :=
  ∀ (s : State) (x : Nibble),
    (∃ t, exec (.skp x) s = .next t ∧ KeepsAllBut [.pc] s t ∧
      ((∃ k : Nibble, k.toNat = (s.getV x).toNat ∧ s.keyDown k = true) → GoesTo t (s.pc.toNat + 4)) ∧
      (¬ (∃ k : Nibble, k.toNat = (s.getV x).toNat ∧ s.keyDown k = true) → GoesTo t (s.pc.toNat + 2))) ∧
    (∃ t, exec (.sknp x) s = .next t ∧ KeepsAllBut [.pc] s t ∧
      ((∃ k : Nibble, k.toNat = (s.getV x).toNat ∧ s.keyDown k = true) → GoesTo t (s.pc.toNat + 2)) ∧
      (¬ (∃ k : Nibble, k.toNat = (s.getV x).toNat ∧ s.keyDown k = true) → GoesTo t (s.pc.toNat + 4)))

/-! ### Register load, arithmetic, logic and shifts -/

/-- R150, with its encoding, which R95 confirms. -/
def Obligations.LoadByteIntoRegister : Prop :=
  ∀ (s : State) (x : Nibble) (kk : Byte),
    decode (BitVec.ofNat 16 (0x6000 + 256 * x.toNat + kk.toNat)) = .ok (.ldImm x kk) ∧
    ∃ t, exec (.ldImm x kk) s = .next t ∧ (∀ r, t.getV r = if r = x then kk else s.getV r) ∧
      GoesTo t (s.pc.toNat + 2) ∧ KeepsAllBut [.v, .pc] s t

/-- `ADD Vx, byte` wraps and sets no flag (spec/43_alu.md, D12). -/
def Obligations.AddByteWrapsWithoutFlag : Prop :=
  ∀ (s : State) (x : Nibble) (kk : Byte), ∃ t, exec (.addImm x kk) s = .next t ∧
    (t.getV x).toNat = ((s.getV x).toNat + kk.toNat) % 256 ∧ (∀ r, r ≠ x → t.getV r = s.getV r) ∧
    GoesTo t (s.pc.toNat + 2) ∧ KeepsAllBut [.v, .pc] s t

/-- R152. -/
def Obligations.CopyRegister : Prop :=
  ∀ (s : State) (x y : Nibble), ∃ t, exec (.ldReg x y) s = .next t ∧
    (∀ r, t.getV r = if r = x then s.getV y else s.getV r) ∧
    GoesTo t (s.pc.toNat + 2) ∧ KeepsAllBut [.v, .pc] s t

/-- `OR`, `AND`, `XOR` bit by bit; `VF` is no side effect (spec/43_alu.md, D11). -/
def Obligations.LogicIsBitwiseWithoutFlag : Prop :=
  ∀ (s : State) (x y : Nibble),
    (∃ t, exec (.orReg x y) s = .next t ∧
      (∀ j < 8, (t.getV x).getLsbD j = ((s.getV x).getLsbD j || (s.getV y).getLsbD j)) ∧
      (∀ r, r ≠ x → t.getV r = s.getV r) ∧ GoesTo t (s.pc.toNat + 2) ∧ KeepsAllBut [.v, .pc] s t) ∧
    (∃ t, exec (.andReg x y) s = .next t ∧
      (∀ j < 8, (t.getV x).getLsbD j = ((s.getV x).getLsbD j && (s.getV y).getLsbD j)) ∧
      (∀ r, r ≠ x → t.getV r = s.getV r) ∧ GoesTo t (s.pc.toNat + 2) ∧ KeepsAllBut [.v, .pc] s t) ∧
    (∃ t, exec (.xorReg x y) s = .next t ∧
      (∀ j < 8, (t.getV x).getLsbD j = ((s.getV x).getLsbD j ^^ (s.getV y).getLsbD j)) ∧
      (∀ r, r ≠ x → t.getV r = s.getV r) ∧ GoesTo t (s.pc.toNat + 2) ∧ KeepsAllBut [.v, .pc] s t)

/-- `ADD Vx, Vy`: the wrapped sum, the carry in `VF`, written last (spec/43_alu.md; D8 for `x = 15`). -/
def Obligations.AddRegistersWithCarry : Prop :=
  ∀ (s : State) (x y : Nibble), ∃ t, exec (.addReg x y) s = .next t ∧
    (t.getV 0xF#4).toNat = (if 256 ≤ (s.getV x).toNat + (s.getV y).toNat then 1 else 0) ∧
    (x ≠ 0xF#4 → (t.getV x).toNat = ((s.getV x).toNat + (s.getV y).toNat) % 256) ∧
    (∀ r, r ≠ x → r ≠ 0xF#4 → t.getV r = s.getV r) ∧
    GoesTo t (s.pc.toNat + 2) ∧ KeepsAllBut [.v, .pc] s t

/-- `SUB` and `SUBN`: the wrapped difference, `VF` 1 where no borrow (D9, equal operands included), written
last (D8). -/
def Obligations.SubtractWithNotBorrow : Prop :=
  ∀ (s : State) (x y : Nibble),
    (∃ t, exec (.sub x y) s = .next t ∧
      (t.getV 0xF#4).toNat = (if (s.getV y).toNat ≤ (s.getV x).toNat then 1 else 0) ∧
      (x ≠ 0xF#4 → ((t.getV x).toNat + (s.getV y).toNat) % 256 = (s.getV x).toNat) ∧
      (∀ r, r ≠ x → r ≠ 0xF#4 → t.getV r = s.getV r) ∧
      GoesTo t (s.pc.toNat + 2) ∧ KeepsAllBut [.v, .pc] s t) ∧
    (∃ t, exec (.subn x y) s = .next t ∧
      (t.getV 0xF#4).toNat = (if (s.getV x).toNat ≤ (s.getV y).toNat then 1 else 0) ∧
      (x ≠ 0xF#4 → ((t.getV x).toNat + (s.getV x).toNat) % 256 = (s.getV y).toNat) ∧
      (∀ r, r ≠ x → r ≠ 0xF#4 → t.getV r = s.getV r) ∧
      GoesTo t (s.pc.toNat + 2) ∧ KeepsAllBut [.v, .pc] s t)

/-- `SHR` and `SHL` shift `V[x]` in place by one, the bit out in `VF`, written last (D8). The second operand is
ignored by the hardware (R100, D10): every `y` has the same effect. -/
def Obligations.ShiftsInPlaceByOne : Prop :=
  ∀ (s : State) (x y : Nibble),
    (∃ t, exec (.shr x y) s = .next t ∧
      (t.getV 0xF#4).toNat = (s.getV x).toNat % 2 ∧ (x ≠ 0xF#4 → (t.getV x).toNat = (s.getV x).toNat / 2) ∧
      (∀ r, r ≠ x → r ≠ 0xF#4 → t.getV r = s.getV r) ∧
      GoesTo t (s.pc.toNat + 2) ∧ KeepsAllBut [.v, .pc] s t) ∧
    (∃ t, exec (.shl x y) s = .next t ∧
      (t.getV 0xF#4).toNat = (s.getV x).toNat / 128 ∧
      (x ≠ 0xF#4 → (t.getV x).toNat = (2 * (s.getV x).toNat) % 256) ∧
      (∀ r, r ≠ x → r ≠ 0xF#4 → t.getV r = s.getV r) ∧
      GoesTo t (s.pc.toNat + 2) ∧ KeepsAllBut [.v, .pc] s t) ∧
    ∀ y', exec (.shr x y') s = exec (.shr x y) s ∧ exec (.shl x y') s = exec (.shl x y) s

/-! ### Index register and memory -/

/-- R170, with its encoding, which R95 confirms. -/
def Obligations.LoadIndex : Prop :=
  ∀ (s : State) (nnn : Addr),
    decode (BitVec.ofNat 16 (0xA000 + nnn.toNat)) = .ok (.ldI nnn) ∧
    ∃ t, exec (.ldI nnn) s = .next t ∧ t.i.toNat = nnn.toNat ∧
      GoesTo t (s.pc.toNat + 2) ∧ KeepsAllBut [.i, .pc] s t

/-- `ADD I, Vx` modulo 4096 without a flag (D3, D13), and `LD F, Vx` by the low nibble (D16)
(spec/44_index_memory.md). -/
def Obligations.IndexArithmetic : Prop :=
  ∀ (s : State) (x : Nibble),
    (∃ t, exec (.addI x) s = .next t ∧ t.i.toNat = (s.i.toNat + (s.getV x).toNat) % 4096 ∧
      GoesTo t (s.pc.toNat + 2) ∧ KeepsAllBut [.i, .pc] s t) ∧
    (∃ t, exec (.ldF x) s = .next t ∧ t.i.toNat = 0x050 + 5 * ((s.getV x).toNat % 16) ∧
      GoesTo t (s.pc.toNat + 2) ∧ KeepsAllBut [.i, .pc] s t)

/-- `LD B, Vx`: three decimal digits at `I`, `I + 1`, `I + 2`, wrapped (spec/44_index_memory.md; the order of
the digits is from general knowledge). -/
def Obligations.DecimalDigitsStored : Prop :=
  ∀ (s : State) (x : Nibble), ∃ t, exec (.ldB x) s = .next t ∧
    (t.memRead (s.operandAddr 0)).toNat = (s.getV x).toNat / 100 ∧
    (t.memRead (s.operandAddr 1)).toNat = (s.getV x).toNat / 10 % 10 ∧
    (t.memRead (s.operandAddr 2)).toNat = (s.getV x).toNat % 10 ∧
    (∀ a, (∀ k < 3, ¬ SameByte a (s.operandAddr k)) → t.memRead a = s.memRead a) ∧
    GoesTo t (s.pc.toNat + 2) ∧ KeepsAllBut [.pc, .mem] s t

/-- `LD [I], Vx`: `V[0]` to `V[x]` at `I` upward, wrapped, `I` unchanged (spec/44_index_memory.md, D15). -/
def Obligations.RegisterBlockStored : Prop :=
  ∀ (s : State) (x : Nibble), ∃ t, exec (.storeRegs x) s = .next t ∧
    (∀ r : Nibble, r.toNat ≤ x.toNat → t.memRead (s.operandAddr r.toNat) = s.getV r) ∧
    (∀ a, (∀ k ≤ x.toNat, ¬ SameByte a (s.operandAddr k)) → t.memRead a = s.memRead a) ∧
    GoesTo t (s.pc.toNat + 2) ∧ KeepsAllBut [.pc, .mem] s t

/-- `LD Vx, [I]`: `V[0]` to `V[x]` from `I` upward, wrapped, `I` unchanged (spec/44_index_memory.md, D15). -/
def Obligations.RegisterBlockLoaded : Prop :=
  ∀ (s : State) (x : Nibble), ∃ t, exec (.loadRegs x) s = .next t ∧
    (∀ r : Nibble, t.getV r = if r.toNat ≤ x.toNat then s.readByte (s.i.toNat + r.toNat) else s.getV r) ∧
    GoesTo t (s.pc.toNat + 2) ∧ KeepsAllBut [.v, .pc] s t

/-! ### Random, display, timers, key wait -/

/-- R180, for every byte the source may draw: the draw is a free value (notes/assumptions/1.md). -/
def Obligations.RandomByteIsMaskedDraw : Prop :=
  ∀ (s : State) (x : Nibble) (kk : Byte), ∃ t, exec (.rnd x kk) s = .next t ∧
    (∀ j < 8, (t.getV x).getLsbD j = ((Config.rngDraw s.rng).getLsbD j && kk.getLsbD j)) ∧
    (∀ r, r ≠ x → t.getV r = s.getV r) ∧ t.rng = Config.rngNext s.rng ∧
    GoesTo t (s.pc.toNat + 2) ∧ KeepsAllBut [.v, .pc, .rng] s t

/-- R186. -/
def Obligations.ClearScreenMarksRedraw : Prop :=
  ∀ s : State, ∃ t, exec .cls s = .next t ∧ (∀ y x, pixelAt t.fb y x = false) ∧ t.redraw = true ∧
    GoesTo t (s.pc.toNat + 2) ∧ KeepsAllBut [.pc, .fb, .redraw] s t

/-- `DRW` in closed form (spec/46_display.md; D19: bit 7 leftmost, no row for `n = 0`): a pixel flips exactly
where a set sprite bit wraps onto it; `VF` is the collision, written last; `redraw` is set exactly when a pixel
changed. -/
def Obligations.DrawXorsSpriteOntoScreen : Prop :=
  ∀ (s : State) (x y n : Nibble), ∃ t, exec (.drw x y n) s = .next t ∧
    (∀ py < 32, ∀ px < 64, pixelAt t.fb py px ≠ pixelAt s.fb py px ↔
      ∃ row < n.toNat, ∃ col < 8, (s.readByte (s.i.toNat + row)).getLsbD (7 - col) = true ∧
        ((s.getV y).toNat + row) % 32 = py ∧ ((s.getV x).toNat + col) % 64 = px) ∧
    ((∃ py < 32, ∃ px < 64, pixelAt s.fb py px = true ∧ pixelAt t.fb py px = false) → t.getV 0xF#4 = 1) ∧
    (¬ (∃ py < 32, ∃ px < 64, pixelAt s.fb py px = true ∧ pixelAt t.fb py px = false) → t.getV 0xF#4 = 0) ∧
    (t.redraw = true ↔ s.redraw = true ∨ ∃ py < 32, ∃ px < 64, pixelAt t.fb py px ≠ pixelAt s.fb py px) ∧
    (∀ r, r ≠ 0xF#4 → t.getV r = s.getV r) ∧
    GoesTo t (s.pc.toNat + 2) ∧ KeepsAllBut [.v, .pc, .fb, .redraw] s t

/-- Two equal draws restore every pixel; the second collides exactly when the first turned a pixel on
(spec/46_display.md, XOR involution; the second clause is the spec's own derivation). -/
def Obligations.DrawingTwiceRestoresScreen : Prop :=
  ∀ (s t u w : State) (x y n : Nibble), exec (.drw x y n) s = .next t →
    u.fb = t.fb → u.getV x = s.getV x → u.getV y = s.getV y → u.i = s.i →
    (∀ a, u.memRead a = s.memRead a) → exec (.drw x y n) u = .next w →
    w.fb = s.fb ∧
    (w.getV 0xF#4 = 1 ↔ ∃ py < 32, ∃ px < 64, pixelAt s.fb py px = false ∧ pixelAt t.fb py px = true)

/-- R195, R196, R197, before the step's own `TimerUpdate`, for which see `TimersFallByOnePerStep`. -/
def Obligations.TimerMoves : Prop :=
  ∀ (s : State) (x : Nibble),
    (∃ t, exec (.ldVxDt x) s = .next t ∧ (∀ r, t.getV r = if r = x then s.dt else s.getV r) ∧
      GoesTo t (s.pc.toNat + 2) ∧ KeepsAllBut [.v, .pc] s t) ∧
    (∃ t, exec (.ldDtVx x) s = .next t ∧ t.dt = s.getV x ∧
      GoesTo t (s.pc.toNat + 2) ∧ KeepsAllBut [.dt, .pc] s t) ∧
    (∃ t, exec (.ldStVx x) s = .next t ∧ t.st = s.getV x ∧
      GoesTo t (s.pc.toNat + 2) ∧ KeepsAllBut [.st, .pc] s t)

/-- R207: `Fx0A` enters the wait and leaves `pc`. -/
def Obligations.KeyWaitIsEntered : Prop :=
  ∀ (s : State) (x : Nibble), ∃ t, exec (.ldVxK x) s = .next t ∧
    t.wait.waiting = true ∧ t.wait.target = x ∧ t.wait.latched = false ∧ KeepsAllBut [.wait] s t
end

