-- ==== Sys2Proof/Laws/Decode.lean ====
section
/-! SUPPORT. The fields of an opcode word (spec/30_encoding.md R89, R91): reading a field of a built word, and
building a word from its fields. -/

namespace Sys2Proof

@[simp] theorem fieldLead_formNNN (l : Nibble) (nnn : Addr) : fieldLead (formNNN l nnn) = l := by
  apply BitVec.eq_of_getLsbD_eq
  intro j hj
  simp only [fieldLead, formNNN, BitVec.getLsbD_append, BitVec.getLsbD_extractLsb']
  interval_cases j <;> simp

@[simp] theorem fieldNNN_formNNN (l : Nibble) (nnn : Addr) : fieldNNN (formNNN l nnn) = nnn := by
  apply BitVec.eq_of_getLsbD_eq
  intro j hj
  simp only [fieldNNN, formNNN, BitVec.getLsbD_append, BitVec.getLsbD_extractLsb']
  interval_cases j <;> simp

@[simp] theorem fieldLead_formXKK (l x : Nibble) (kk : Byte) : fieldLead (formXKK l x kk) = l :=
  fieldLead_formNNN l (x ++ kk)

@[simp] theorem fieldLead_formXYN (l x y n : Nibble) : fieldLead (formXYN l x y n) = l :=
  fieldLead_formNNN l (x ++ (y ++ n))

@[simp] theorem fieldX_formXKK (l x : Nibble) (kk : Byte) : fieldX (formXKK l x kk) = x := by
  apply BitVec.eq_of_getLsbD_eq
  intro j hj
  simp only [fieldX, formXKK, BitVec.getLsbD_append, BitVec.getLsbD_extractLsb']
  interval_cases j <;> simp

@[simp] theorem fieldKK_formXKK (l x : Nibble) (kk : Byte) : fieldKK (formXKK l x kk) = kk := by
  apply BitVec.eq_of_getLsbD_eq
  intro j hj
  simp only [fieldKK, formXKK, BitVec.getLsbD_append, BitVec.getLsbD_extractLsb']
  interval_cases j <;> simp

@[simp] theorem fieldX_formXYN (l x y n : Nibble) : fieldX (formXYN l x y n) = x := by
  apply BitVec.eq_of_getLsbD_eq
  intro j hj
  simp only [fieldX, formXYN, BitVec.getLsbD_append, BitVec.getLsbD_extractLsb']
  interval_cases j <;> simp

@[simp] theorem fieldY_formXYN (l x y n : Nibble) : fieldY (formXYN l x y n) = y := by
  apply BitVec.eq_of_getLsbD_eq
  intro j hj
  simp only [fieldY, formXYN, BitVec.getLsbD_append, BitVec.getLsbD_extractLsb']
  interval_cases j <;> simp

@[simp] theorem fieldN_formXYN (l x y n : Nibble) : fieldN (formXYN l x y n) = n := by
  apply BitVec.eq_of_getLsbD_eq
  intro j hj
  simp only [fieldN, formXYN, BitVec.getLsbD_append, BitVec.getLsbD_extractLsb']
  interval_cases j <;> simp

theorem formNNN_fields (op : Word) : formNNN (fieldLead op) (fieldNNN op) = op := by
  apply BitVec.eq_of_getLsbD_eq
  intro j hj
  simp only [formNNN, fieldLead, fieldNNN, BitVec.getLsbD_append, BitVec.getLsbD_extractLsb']
  interval_cases j <;> simp

theorem formXKK_fields (op : Word) : formXKK (fieldLead op) (fieldX op) (fieldKK op) = op := by
  apply BitVec.eq_of_getLsbD_eq
  intro j hj
  simp only [formXKK, fieldLead, fieldX, fieldKK, BitVec.getLsbD_append, BitVec.getLsbD_extractLsb']
  interval_cases j <;> simp

theorem formXYN_fields (op : Word) : formXYN (fieldLead op) (fieldX op) (fieldY op) (fieldN op) = op := by
  apply BitVec.eq_of_getLsbD_eq
  intro j hj
  simp only [formXYN, fieldLead, fieldX, fieldY, fieldN, BitVec.getLsbD_append, BitVec.getLsbD_extractLsb']
  interval_cases j <;> simp

@[simp] theorem joinBytes_split (w : Word) : joinBytes (w.extractLsb' 8 8) (w.extractLsb' 0 8) = w := by
  apply BitVec.eq_of_getLsbD_eq
  intro j hj
  simp only [joinBytes, BitVec.getLsbD_append, BitVec.getLsbD_extractLsb']
  interval_cases j <;> simp

/-- The sixteen values of a leading nibble, for a case split over the opcode table. -/
theorem nibble_cases : ∀ l : Nibble, l = 0x0#4 ∨ l = 0x1#4 ∨ l = 0x2#4 ∨ l = 0x3#4 ∨ l = 0x4#4 ∨ l = 0x5#4 ∨
    l = 0x6#4 ∨ l = 0x7#4 ∨ l = 0x8#4 ∨ l = 0x9#4 ∨ l = 0xA#4 ∨ l = 0xB#4 ∨ l = 0xC#4 ∨ l = 0xD#4 ∨
    l = 0xE#4 ∨ l = 0xF#4 := by decide

end Sys2Proof
end

