-- ==== Sys2Proof/Laws/Memory.lean ====
section
/-! SUPPORT. Main memory: what a read gives after a write and after a load, and that every memory operation
keeps the canonical form. -/

namespace Sys2Proof.Machine

/-! ### Addresses -/

@[simp] theorem wrap12_toNat (w : Word) : (wrap12 w).toNat = w.toNat % 4096 := by
  simp [wrap12, BitVec.toNat_setWidth]
  omega

theorem wrap12_lt (w : Word) : (wrap12 w).toNat < 4096 := by
  rw [wrap12_toNat]; omega

/-! ### Reading after a write -/

@[simp] theorem Memory.lookup_erase (m : Memory) (a b : Nat) :
    Memory.lookup (Memory.erase m a) b = if a = b then none else Memory.lookup m b := by
  induction m with
  | nil => simp [Memory.erase, Memory.lookup]
  | cons c m ih =>
    obtain ⟨k, w⟩ := c
    by_cases hk : k = a
    · subst hk
      simp only [Memory.erase, if_true, ih, Memory.lookup]
      split <;> rfl
    · simp only [Memory.erase, if_neg hk, Memory.lookup, ih]
      split <;> split <;> simp_all

@[simp] theorem Memory.lookup_insert (m : Memory) (a b : Nat) (w : Byte) :
    Memory.lookup (Memory.insert m a w) b = if a = b then some w else Memory.lookup m b := by
  induction m with
  | nil => simp [Memory.insert, Memory.lookup]
  | cons c m ih =>
    obtain ⟨k, u⟩ := c
    simp only [Memory.insert]
    split
    · simp [Memory.lookup]
    · split
      · subst_vars
        simp only [Memory.lookup]
        split <;> rfl
      · simp only [Memory.lookup, ih]
        split <;> split <;> simp_all

/-- A read after a write gives the byte written at that address and the old byte everywhere else (R61, R62). -/
theorem Memory.read_write (m : Memory) (a b : Nat) (w : Byte) :
    Memory.read (Memory.write m a w) b = if a = b then w else Memory.read m b := by
  unfold Memory.read Memory.write
  split
  · next h =>
    rw [Memory.lookup_erase]
    split
    · subst_vars; simp
    · rfl
  · rw [Memory.lookup_insert]
    split <;> rfl

/-- A read after bytes were copied from `a` upward gives the byte copied there, else the old one (R74). -/
theorem Memory.read_writeAll (m : Memory) (a b : Nat) (ws : List Byte) :
    Memory.read (Memory.writeAll m a ws) b =
      if h : a ≤ b ∧ b - a < ws.length then ws[b - a]'h.2 else Memory.read m b := by
  induction ws generalizing m a with
  | nil => simp [Memory.writeAll]
  | cons w ws ih =>
    rw [Memory.writeAll, ih, Memory.read_write]
    by_cases hab : a = b
    · subst hab
      simp
    · by_cases hlt : a + 1 ≤ b
      · have e : b - a = (b - (a + 1)) + 1 := by omega
        simp only [List.length_cons, e, List.getElem_cons_succ, if_neg hab]
        by_cases h2 : b - (a + 1) < ws.length
        · rw [dif_pos ⟨hlt, h2⟩, dif_pos ⟨by omega, by omega⟩]
        · rw [dif_neg (by omega), dif_neg (by omega)]
      · rw [dif_neg (by omega), dif_neg (by omega), if_neg hab]

/-! ### The canonical form -/

theorem Memory.wfFrom_mono {lo lo' : Nat} (h : lo' ≤ lo) :
    ∀ m : Memory, Memory.wfFrom lo m = true → Memory.wfFrom lo' m = true
  | [], _ => rfl
  | (a, w) :: m, hm => by
    simp only [Memory.wfFrom, Bool.and_eq_true, decide_eq_true_eq] at hm ⊢
    exact ⟨⟨⟨by omega, hm.1.1.2⟩, hm.1.2⟩, hm.2⟩

theorem Memory.wfFrom_erase (a : Nat) : ∀ (m : Memory) (lo : Nat),
    Memory.wfFrom lo m = true → Memory.wfFrom lo (Memory.erase m a) = true
  | [], _, _ => rfl
  | (b, w) :: m, lo, hm => by
    simp only [Memory.wfFrom, Bool.and_eq_true, decide_eq_true_eq] at hm
    simp only [Memory.erase]
    split
    · exact Memory.wfFrom_mono (by omega) _ (Memory.wfFrom_erase a m (b + 1) hm.2)
    · simp only [Memory.wfFrom, Bool.and_eq_true, decide_eq_true_eq]
      exact ⟨hm.1, Memory.wfFrom_erase a m (b + 1) hm.2⟩

theorem Memory.wfFrom_insert (a : Nat) (w : Byte) (ha : a < Config.memSize) (hw : w ≠ resetByte a) :
    ∀ (m : Memory) (lo : Nat), lo ≤ a →
      Memory.wfFrom lo m = true → Memory.wfFrom lo (Memory.insert m a w) = true
  | [], lo, hlo, _ => by simp [Memory.insert, Memory.wfFrom, ha, hw, hlo]
  | (b, u) :: m, lo, hlo, hm => by
    simp only [Memory.wfFrom, Bool.and_eq_true, decide_eq_true_eq] at hm
    simp only [Memory.insert]
    split
    · next h =>
      simp only [Memory.wfFrom, Bool.and_eq_true, decide_eq_true_eq]
      refine ⟨⟨⟨hlo, ha⟩, by simpa using hw⟩, ⟨⟨by omega, hm.1.1.2⟩, hm.1.2⟩, hm.2⟩
    · split
      · next h =>
        subst h
        simp only [Memory.wfFrom, Bool.and_eq_true, decide_eq_true_eq]
        exact ⟨⟨⟨hlo, ha⟩, by simpa using hw⟩, hm.2⟩
      · simp only [Memory.wfFrom, Bool.and_eq_true, decide_eq_true_eq]
        exact ⟨hm.1, Memory.wfFrom_insert a w ha hw m (b + 1) (by omega) hm.2⟩

/-- A write below 4096 keeps the canonical form. -/
theorem Memory.wf_write {m : Memory} (h : Memory.wf m = true) {a : Nat} (ha : a < 4096) (w : Byte) :
    Memory.wf (Memory.write m a w) = true := by
  unfold Memory.write
  split
  · exact Memory.wfFrom_erase a m 0 h
  · next hw => exact Memory.wfFrom_insert a w ha hw m 0 (Nat.zero_le a) h

/-- Copying bytes that fit below 4096 keeps the canonical form. -/
theorem Memory.wf_writeAll : ∀ (ws : List Byte) (m : Memory) (a : Nat), a + ws.length ≤ 4096 →
    Memory.wf m = true → Memory.wf (Memory.writeAll m a ws) = true
  | [], _, _, _, h => h
  | w :: ws, m, a, ha, h => by
    simp only [List.length_cons] at ha
    exact Memory.wf_writeAll ws _ (a + 1) (by omega) (Memory.wf_write h (by omega) w)

/-- `MemLoad` keeps the canonical form. -/
theorem Memory.wf_load {m : Memory} (h : Memory.wf m = true) (bytes : List Byte) :
    Memory.wf (Memory.load m bytes).2 = true := by
  unfold Memory.load
  split
  · exact h
  · next hl =>
    simp only [Config.maxProgram, not_lt] at hl
    exact Memory.wf_writeAll _ _ _ (by simp only [Config.progBase]; omega) h

/-- The reset memory is canonical. -/
theorem Memory.wf_reset : Memory.wf State.reset.mem = true := rfl

/-- `MemWrite` keeps the canonical form. -/
theorem State.wf_memWrite {s : State} (h : Memory.wf s.mem = true) (a : Word) (w : Byte) :
    Memory.wf (s.memWrite a w).mem = true :=
  Memory.wf_write h (wrap12_lt a) w

/-- Canonical memories that read alike are equal: equal memories are equal data. -/
theorem Memory.wfFrom_ext : ∀ (m m' : Memory) (lo : Nat),
    Memory.wfFrom lo m = true → Memory.wfFrom lo m' = true →
    (∀ a, Memory.read m a = Memory.read m' a) → m = m' := by
  have low : ∀ (m : Memory) (lo a : Nat), Memory.wfFrom lo m = true → a < lo → Memory.lookup m a = none := by
    intro m
    induction m with
    | nil => intros; rfl
    | cons c m ih =>
      obtain ⟨b, w⟩ := c
      intro lo a h hlt
      simp only [Memory.wfFrom, Bool.and_eq_true, decide_eq_true_eq] at h
      rw [Memory.lookup, if_neg (by omega)]
      exact ih (b + 1) a h.2 (by omega)
  have headRead : ∀ (a : Nat) (w : Byte) (m : Memory) (lo : Nat), Memory.wfFrom lo ((a, w) :: m) = true →
      Memory.read ((a, w) :: m) a ≠ resetByte a := by
    intro a w m lo h
    simp only [Memory.wfFrom, Bool.and_eq_true, bne_iff_ne] at h
    simpa [Memory.read, Memory.lookup] using h.1.2
  intro m
  induction m with
  | nil =>
    intro m' lo _ h' e
    cases m' with
    | nil => rfl
    | cons c m' => exact absurd (e c.1).symm (headRead c.1 c.2 m' lo h')
  | cons c m ih =>
    obtain ⟨a, w⟩ := c
    intro m' lo h h' e
    cases m' with
    | nil => exact absurd (e a) (headRead a w m lo h)
    | cons d m' =>
      obtain ⟨b, u⟩ := d
      have hh := h
      have hh' := h'
      simp only [Memory.wfFrom, Bool.and_eq_true, decide_eq_true_eq, bne_iff_ne] at hh hh'
      have hab : a = b := by
        rcases Nat.lt_trichotomy a b with hlt | rfl | hlt
        · have := e a
          rw [show Memory.read ((b, u) :: m') a = resetByte a by
            simp [Memory.read, Memory.lookup, Nat.ne_of_gt hlt, low m' (b + 1) a hh'.2 (by omega)]] at this
          exact absurd this (headRead a w m lo h)
        · rfl
        · have := e b
          rw [show Memory.read ((a, w) :: m) b = resetByte b by
            simp [Memory.read, Memory.lookup, Nat.ne_of_gt hlt, low m (a + 1) b hh.2 (by omega)]] at this
          exact absurd this.symm (headRead b u m' lo h')
      subst hab
      have hw : w = u := by simpa [Memory.read, Memory.lookup] using e a
      subst hw
      rw [ih m' (a + 1) hh.2 hh'.2]
      intro k
      by_cases hk : a = k
      · subst hk
        simp [Memory.read, low m (a + 1) a hh.2 (by omega), low m' (a + 1) a hh'.2 (by omega)]
      · simpa [Memory.read, Memory.lookup, hk] using e k

end Sys2Proof.Machine
end

