-- ==== Sys2Proof/Laws/State.lean ====
section
/-! SUPPORT. What every update of the state does to every field, each true by unfolding, and what the updates
leave of a register read and of a memory read. -/

namespace Sys2Proof.Machine

/-! ### `State.setV` -/

@[simp] theorem State.setV_v (s : State) (x : Nibble) (b : Byte) : (s.setV x b).v = s.v.set x.toNat b x.isLt := rfl
@[simp] theorem State.setV_pc (s : State) (x : Nibble) (b : Byte) : (s.setV x b).pc = s.pc := rfl
@[simp] theorem State.setV_i (s : State) (x : Nibble) (b : Byte) : (s.setV x b).i = s.i := rfl
@[simp] theorem State.setV_stack (s : State) (x : Nibble) (b : Byte) : (s.setV x b).stack = s.stack := rfl
@[simp] theorem State.setV_sp (s : State) (x : Nibble) (b : Byte) : (s.setV x b).sp = s.sp := rfl
@[simp] theorem State.setV_dt (s : State) (x : Nibble) (b : Byte) : (s.setV x b).dt = s.dt := rfl
@[simp] theorem State.setV_st (s : State) (x : Nibble) (b : Byte) : (s.setV x b).st = s.st := rfl
@[simp] theorem State.setV_wait (s : State) (x : Nibble) (b : Byte) : (s.setV x b).wait = s.wait := rfl
@[simp] theorem State.setV_keys (s : State) (x : Nibble) (b : Byte) : (s.setV x b).keys = s.keys := rfl
@[simp] theorem State.setV_fb (s : State) (x : Nibble) (b : Byte) : (s.setV x b).fb = s.fb := rfl
@[simp] theorem State.setV_redraw (s : State) (x : Nibble) (b : Byte) : (s.setV x b).redraw = s.redraw := rfl
@[simp] theorem State.setV_cond (s : State) (x : Nibble) (b : Byte) : (s.setV x b).cond = s.cond := rfl
@[simp] theorem State.setV_rng (s : State) (x : Nibble) (b : Byte) : (s.setV x b).rng = s.rng := rfl
@[simp] theorem State.setV_mem (s : State) (x : Nibble) (b : Byte) : (s.setV x b).mem = s.mem := rfl
@[simp] theorem State.setV_memRead (s : State) (x : Nibble) (b : Byte) (a' : Word) : (s.setV x b).memRead a' = s.memRead a' := rfl

/-! ### `State.setVF` -/

@[simp] theorem State.setVF_v (s : State) (f : Bool) : (s.setVF f).v = s.v.set 15 (if f then 1 else 0) := rfl
@[simp] theorem State.setVF_pc (s : State) (f : Bool) : (s.setVF f).pc = s.pc := rfl
@[simp] theorem State.setVF_i (s : State) (f : Bool) : (s.setVF f).i = s.i := rfl
@[simp] theorem State.setVF_stack (s : State) (f : Bool) : (s.setVF f).stack = s.stack := rfl
@[simp] theorem State.setVF_sp (s : State) (f : Bool) : (s.setVF f).sp = s.sp := rfl
@[simp] theorem State.setVF_dt (s : State) (f : Bool) : (s.setVF f).dt = s.dt := rfl
@[simp] theorem State.setVF_st (s : State) (f : Bool) : (s.setVF f).st = s.st := rfl
@[simp] theorem State.setVF_wait (s : State) (f : Bool) : (s.setVF f).wait = s.wait := rfl
@[simp] theorem State.setVF_keys (s : State) (f : Bool) : (s.setVF f).keys = s.keys := rfl
@[simp] theorem State.setVF_fb (s : State) (f : Bool) : (s.setVF f).fb = s.fb := rfl
@[simp] theorem State.setVF_redraw (s : State) (f : Bool) : (s.setVF f).redraw = s.redraw := rfl
@[simp] theorem State.setVF_cond (s : State) (f : Bool) : (s.setVF f).cond = s.cond := rfl
@[simp] theorem State.setVF_rng (s : State) (f : Bool) : (s.setVF f).rng = s.rng := rfl
@[simp] theorem State.setVF_mem (s : State) (f : Bool) : (s.setVF f).mem = s.mem := rfl
@[simp] theorem State.setVF_memRead (s : State) (f : Bool) (a' : Word) : (s.setVF f).memRead a' = s.memRead a' := rfl

/-! ### `State.setVFlag` -/

@[simp] theorem State.setVFlag_pc (s : State) (x : Nibble) (b : Byte) (f : Bool) : (s.setVFlag x b f).pc = s.pc := rfl
@[simp] theorem State.setVFlag_i (s : State) (x : Nibble) (b : Byte) (f : Bool) : (s.setVFlag x b f).i = s.i := rfl
@[simp] theorem State.setVFlag_stack (s : State) (x : Nibble) (b : Byte) (f : Bool) : (s.setVFlag x b f).stack = s.stack := rfl
@[simp] theorem State.setVFlag_sp (s : State) (x : Nibble) (b : Byte) (f : Bool) : (s.setVFlag x b f).sp = s.sp := rfl
@[simp] theorem State.setVFlag_dt (s : State) (x : Nibble) (b : Byte) (f : Bool) : (s.setVFlag x b f).dt = s.dt := rfl
@[simp] theorem State.setVFlag_st (s : State) (x : Nibble) (b : Byte) (f : Bool) : (s.setVFlag x b f).st = s.st := rfl
@[simp] theorem State.setVFlag_wait (s : State) (x : Nibble) (b : Byte) (f : Bool) : (s.setVFlag x b f).wait = s.wait := rfl
@[simp] theorem State.setVFlag_keys (s : State) (x : Nibble) (b : Byte) (f : Bool) : (s.setVFlag x b f).keys = s.keys := rfl
@[simp] theorem State.setVFlag_fb (s : State) (x : Nibble) (b : Byte) (f : Bool) : (s.setVFlag x b f).fb = s.fb := rfl
@[simp] theorem State.setVFlag_redraw (s : State) (x : Nibble) (b : Byte) (f : Bool) : (s.setVFlag x b f).redraw = s.redraw := rfl
@[simp] theorem State.setVFlag_cond (s : State) (x : Nibble) (b : Byte) (f : Bool) : (s.setVFlag x b f).cond = s.cond := rfl
@[simp] theorem State.setVFlag_rng (s : State) (x : Nibble) (b : Byte) (f : Bool) : (s.setVFlag x b f).rng = s.rng := rfl
@[simp] theorem State.setVFlag_mem (s : State) (x : Nibble) (b : Byte) (f : Bool) : (s.setVFlag x b f).mem = s.mem := rfl
@[simp] theorem State.setVFlag_memRead (s : State) (x : Nibble) (b : Byte) (f : Bool) (a' : Word) : (s.setVFlag x b f).memRead a' = s.memRead a' := rfl

/-! ### `State.setPc` -/

@[simp] theorem State.setPc_v (s : State) (a : Word) : (s.setPc a).v = s.v := rfl
@[simp] theorem State.setPc_pc (s : State) (a : Word) : (s.setPc a).pc = wrap12 a := rfl
@[simp] theorem State.setPc_i (s : State) (a : Word) : (s.setPc a).i = s.i := rfl
@[simp] theorem State.setPc_stack (s : State) (a : Word) : (s.setPc a).stack = s.stack := rfl
@[simp] theorem State.setPc_sp (s : State) (a : Word) : (s.setPc a).sp = s.sp := rfl
@[simp] theorem State.setPc_dt (s : State) (a : Word) : (s.setPc a).dt = s.dt := rfl
@[simp] theorem State.setPc_st (s : State) (a : Word) : (s.setPc a).st = s.st := rfl
@[simp] theorem State.setPc_wait (s : State) (a : Word) : (s.setPc a).wait = s.wait := rfl
@[simp] theorem State.setPc_keys (s : State) (a : Word) : (s.setPc a).keys = s.keys := rfl
@[simp] theorem State.setPc_fb (s : State) (a : Word) : (s.setPc a).fb = s.fb := rfl
@[simp] theorem State.setPc_redraw (s : State) (a : Word) : (s.setPc a).redraw = s.redraw := rfl
@[simp] theorem State.setPc_cond (s : State) (a : Word) : (s.setPc a).cond = s.cond := rfl
@[simp] theorem State.setPc_rng (s : State) (a : Word) : (s.setPc a).rng = s.rng := rfl
@[simp] theorem State.setPc_mem (s : State) (a : Word) : (s.setPc a).mem = s.mem := rfl
@[simp] theorem State.setPc_getV (s : State) (a : Word) (r : Nibble) : (s.setPc a).getV r = s.getV r := rfl
@[simp] theorem State.setPc_memRead (s : State) (a : Word) (a' : Word) : (s.setPc a).memRead a' = s.memRead a' := rfl

/-! ### `State.advance` -/

@[simp] theorem State.advance_v (s : State) : (s.advance).v = s.v := rfl
@[simp] theorem State.advance_pc (s : State) : (s.advance).pc = s.npc := rfl
@[simp] theorem State.advance_i (s : State) : (s.advance).i = s.i := rfl
@[simp] theorem State.advance_stack (s : State) : (s.advance).stack = s.stack := rfl
@[simp] theorem State.advance_sp (s : State) : (s.advance).sp = s.sp := rfl
@[simp] theorem State.advance_dt (s : State) : (s.advance).dt = s.dt := rfl
@[simp] theorem State.advance_st (s : State) : (s.advance).st = s.st := rfl
@[simp] theorem State.advance_wait (s : State) : (s.advance).wait = s.wait := rfl
@[simp] theorem State.advance_keys (s : State) : (s.advance).keys = s.keys := rfl
@[simp] theorem State.advance_fb (s : State) : (s.advance).fb = s.fb := rfl
@[simp] theorem State.advance_redraw (s : State) : (s.advance).redraw = s.redraw := rfl
@[simp] theorem State.advance_cond (s : State) : (s.advance).cond = s.cond := rfl
@[simp] theorem State.advance_rng (s : State) : (s.advance).rng = s.rng := rfl
@[simp] theorem State.advance_mem (s : State) : (s.advance).mem = s.mem := rfl
@[simp] theorem State.advance_getV (s : State) (r : Nibble) : (s.advance).getV r = s.getV r := rfl
@[simp] theorem State.advance_memRead (s : State) (a' : Word) : (s.advance).memRead a' = s.memRead a' := rfl

/-! ### `State.setI` -/

@[simp] theorem State.setI_v (s : State) (a : Word) : (s.setI a).v = s.v := rfl
@[simp] theorem State.setI_pc (s : State) (a : Word) : (s.setI a).pc = s.pc := rfl
@[simp] theorem State.setI_i (s : State) (a : Word) : (s.setI a).i = wrap12 a := rfl
@[simp] theorem State.setI_stack (s : State) (a : Word) : (s.setI a).stack = s.stack := rfl
@[simp] theorem State.setI_sp (s : State) (a : Word) : (s.setI a).sp = s.sp := rfl
@[simp] theorem State.setI_dt (s : State) (a : Word) : (s.setI a).dt = s.dt := rfl
@[simp] theorem State.setI_st (s : State) (a : Word) : (s.setI a).st = s.st := rfl
@[simp] theorem State.setI_wait (s : State) (a : Word) : (s.setI a).wait = s.wait := rfl
@[simp] theorem State.setI_keys (s : State) (a : Word) : (s.setI a).keys = s.keys := rfl
@[simp] theorem State.setI_fb (s : State) (a : Word) : (s.setI a).fb = s.fb := rfl
@[simp] theorem State.setI_redraw (s : State) (a : Word) : (s.setI a).redraw = s.redraw := rfl
@[simp] theorem State.setI_cond (s : State) (a : Word) : (s.setI a).cond = s.cond := rfl
@[simp] theorem State.setI_rng (s : State) (a : Word) : (s.setI a).rng = s.rng := rfl
@[simp] theorem State.setI_mem (s : State) (a : Word) : (s.setI a).mem = s.mem := rfl
@[simp] theorem State.setI_getV (s : State) (a : Word) (r : Nibble) : (s.setI a).getV r = s.getV r := rfl
@[simp] theorem State.setI_memRead (s : State) (a : Word) (a' : Word) : (s.setI a).memRead a' = s.memRead a' := rfl

/-! ### `State.setDt` -/

@[simp] theorem State.setDt_v (s : State) (b : Byte) : (s.setDt b).v = s.v := rfl
@[simp] theorem State.setDt_pc (s : State) (b : Byte) : (s.setDt b).pc = s.pc := rfl
@[simp] theorem State.setDt_i (s : State) (b : Byte) : (s.setDt b).i = s.i := rfl
@[simp] theorem State.setDt_stack (s : State) (b : Byte) : (s.setDt b).stack = s.stack := rfl
@[simp] theorem State.setDt_sp (s : State) (b : Byte) : (s.setDt b).sp = s.sp := rfl
@[simp] theorem State.setDt_dt (s : State) (b : Byte) : (s.setDt b).dt = b := rfl
@[simp] theorem State.setDt_st (s : State) (b : Byte) : (s.setDt b).st = s.st := rfl
@[simp] theorem State.setDt_wait (s : State) (b : Byte) : (s.setDt b).wait = s.wait := rfl
@[simp] theorem State.setDt_keys (s : State) (b : Byte) : (s.setDt b).keys = s.keys := rfl
@[simp] theorem State.setDt_fb (s : State) (b : Byte) : (s.setDt b).fb = s.fb := rfl
@[simp] theorem State.setDt_redraw (s : State) (b : Byte) : (s.setDt b).redraw = s.redraw := rfl
@[simp] theorem State.setDt_cond (s : State) (b : Byte) : (s.setDt b).cond = s.cond := rfl
@[simp] theorem State.setDt_rng (s : State) (b : Byte) : (s.setDt b).rng = s.rng := rfl
@[simp] theorem State.setDt_mem (s : State) (b : Byte) : (s.setDt b).mem = s.mem := rfl
@[simp] theorem State.setDt_getV (s : State) (b : Byte) (r : Nibble) : (s.setDt b).getV r = s.getV r := rfl
@[simp] theorem State.setDt_memRead (s : State) (b : Byte) (a' : Word) : (s.setDt b).memRead a' = s.memRead a' := rfl

/-! ### `State.setSt` -/

@[simp] theorem State.setSt_v (s : State) (b : Byte) : (s.setSt b).v = s.v := rfl
@[simp] theorem State.setSt_pc (s : State) (b : Byte) : (s.setSt b).pc = s.pc := rfl
@[simp] theorem State.setSt_i (s : State) (b : Byte) : (s.setSt b).i = s.i := rfl
@[simp] theorem State.setSt_stack (s : State) (b : Byte) : (s.setSt b).stack = s.stack := rfl
@[simp] theorem State.setSt_sp (s : State) (b : Byte) : (s.setSt b).sp = s.sp := rfl
@[simp] theorem State.setSt_dt (s : State) (b : Byte) : (s.setSt b).dt = s.dt := rfl
@[simp] theorem State.setSt_st (s : State) (b : Byte) : (s.setSt b).st = b := rfl
@[simp] theorem State.setSt_wait (s : State) (b : Byte) : (s.setSt b).wait = s.wait := rfl
@[simp] theorem State.setSt_keys (s : State) (b : Byte) : (s.setSt b).keys = s.keys := rfl
@[simp] theorem State.setSt_fb (s : State) (b : Byte) : (s.setSt b).fb = s.fb := rfl
@[simp] theorem State.setSt_redraw (s : State) (b : Byte) : (s.setSt b).redraw = s.redraw := rfl
@[simp] theorem State.setSt_cond (s : State) (b : Byte) : (s.setSt b).cond = s.cond := rfl
@[simp] theorem State.setSt_rng (s : State) (b : Byte) : (s.setSt b).rng = s.rng := rfl
@[simp] theorem State.setSt_mem (s : State) (b : Byte) : (s.setSt b).mem = s.mem := rfl
@[simp] theorem State.setSt_getV (s : State) (b : Byte) (r : Nibble) : (s.setSt b).getV r = s.getV r := rfl
@[simp] theorem State.setSt_memRead (s : State) (b : Byte) (a' : Word) : (s.setSt b).memRead a' = s.memRead a' := rfl

/-! ### `State.memWrite` -/

@[simp] theorem State.memWrite_v (s : State) (a : Word) (b : Byte) : (s.memWrite a b).v = s.v := rfl
@[simp] theorem State.memWrite_pc (s : State) (a : Word) (b : Byte) : (s.memWrite a b).pc = s.pc := rfl
@[simp] theorem State.memWrite_i (s : State) (a : Word) (b : Byte) : (s.memWrite a b).i = s.i := rfl
@[simp] theorem State.memWrite_stack (s : State) (a : Word) (b : Byte) : (s.memWrite a b).stack = s.stack := rfl
@[simp] theorem State.memWrite_sp (s : State) (a : Word) (b : Byte) : (s.memWrite a b).sp = s.sp := rfl
@[simp] theorem State.memWrite_dt (s : State) (a : Word) (b : Byte) : (s.memWrite a b).dt = s.dt := rfl
@[simp] theorem State.memWrite_st (s : State) (a : Word) (b : Byte) : (s.memWrite a b).st = s.st := rfl
@[simp] theorem State.memWrite_wait (s : State) (a : Word) (b : Byte) : (s.memWrite a b).wait = s.wait := rfl
@[simp] theorem State.memWrite_keys (s : State) (a : Word) (b : Byte) : (s.memWrite a b).keys = s.keys := rfl
@[simp] theorem State.memWrite_fb (s : State) (a : Word) (b : Byte) : (s.memWrite a b).fb = s.fb := rfl
@[simp] theorem State.memWrite_redraw (s : State) (a : Word) (b : Byte) : (s.memWrite a b).redraw = s.redraw := rfl
@[simp] theorem State.memWrite_cond (s : State) (a : Word) (b : Byte) : (s.memWrite a b).cond = s.cond := rfl
@[simp] theorem State.memWrite_rng (s : State) (a : Word) (b : Byte) : (s.memWrite a b).rng = s.rng := rfl
@[simp] theorem State.memWrite_mem (s : State) (a : Word) (b : Byte) : (s.memWrite a b).mem = Memory.write s.mem (wrap12 a).toNat b := rfl
@[simp] theorem State.memWrite_getV (s : State) (a : Word) (b : Byte) (r : Nibble) : (s.memWrite a b).getV r = s.getV r := rfl

/-! ### `State.setCond` -/

@[simp] theorem State.setCond_v (s : State) (c : Cond) : (s.setCond c).v = s.v := rfl
@[simp] theorem State.setCond_pc (s : State) (c : Cond) : (s.setCond c).pc = s.pc := rfl
@[simp] theorem State.setCond_i (s : State) (c : Cond) : (s.setCond c).i = s.i := rfl
@[simp] theorem State.setCond_stack (s : State) (c : Cond) : (s.setCond c).stack = s.stack := rfl
@[simp] theorem State.setCond_sp (s : State) (c : Cond) : (s.setCond c).sp = s.sp := rfl
@[simp] theorem State.setCond_dt (s : State) (c : Cond) : (s.setCond c).dt = s.dt := rfl
@[simp] theorem State.setCond_st (s : State) (c : Cond) : (s.setCond c).st = s.st := rfl
@[simp] theorem State.setCond_wait (s : State) (c : Cond) : (s.setCond c).wait = s.wait := rfl
@[simp] theorem State.setCond_keys (s : State) (c : Cond) : (s.setCond c).keys = s.keys := rfl
@[simp] theorem State.setCond_fb (s : State) (c : Cond) : (s.setCond c).fb = s.fb := rfl
@[simp] theorem State.setCond_redraw (s : State) (c : Cond) : (s.setCond c).redraw = s.redraw := rfl
@[simp] theorem State.setCond_cond (s : State) (c : Cond) : (s.setCond c).cond = c := rfl
@[simp] theorem State.setCond_rng (s : State) (c : Cond) : (s.setCond c).rng = s.rng := rfl
@[simp] theorem State.setCond_mem (s : State) (c : Cond) : (s.setCond c).mem = s.mem := rfl
@[simp] theorem State.setCond_getV (s : State) (c : Cond) (r : Nibble) : (s.setCond c).getV r = s.getV r := rfl
@[simp] theorem State.setCond_memRead (s : State) (c : Cond) (a' : Word) : (s.setCond c).memRead a' = s.memRead a' := rfl

/-! ### `State.raise` -/

@[simp] theorem State.raise_v (s : State) (c : Cond) : (s.raise c).v = s.v := rfl
@[simp] theorem State.raise_pc (s : State) (c : Cond) : (s.raise c).pc = s.npc := rfl
@[simp] theorem State.raise_i (s : State) (c : Cond) : (s.raise c).i = s.i := rfl
@[simp] theorem State.raise_stack (s : State) (c : Cond) : (s.raise c).stack = s.stack := rfl
@[simp] theorem State.raise_sp (s : State) (c : Cond) : (s.raise c).sp = s.sp := rfl
@[simp] theorem State.raise_dt (s : State) (c : Cond) : (s.raise c).dt = s.dt := rfl
@[simp] theorem State.raise_st (s : State) (c : Cond) : (s.raise c).st = s.st := rfl
@[simp] theorem State.raise_wait (s : State) (c : Cond) : (s.raise c).wait = s.wait := rfl
@[simp] theorem State.raise_keys (s : State) (c : Cond) : (s.raise c).keys = s.keys := rfl
@[simp] theorem State.raise_fb (s : State) (c : Cond) : (s.raise c).fb = s.fb := rfl
@[simp] theorem State.raise_redraw (s : State) (c : Cond) : (s.raise c).redraw = s.redraw := rfl
@[simp] theorem State.raise_cond (s : State) (c : Cond) : (s.raise c).cond = c := rfl
@[simp] theorem State.raise_rng (s : State) (c : Cond) : (s.raise c).rng = s.rng := rfl
@[simp] theorem State.raise_mem (s : State) (c : Cond) : (s.raise c).mem = s.mem := rfl
@[simp] theorem State.raise_getV (s : State) (c : Cond) (r : Nibble) : (s.raise c).getV r = s.getV r := rfl
@[simp] theorem State.raise_memRead (s : State) (c : Cond) (a' : Word) : (s.raise c).memRead a' = s.memRead a' := rfl

/-! ### `State.executeUnknown` -/

@[simp] theorem State.executeUnknown_v (s : State) : (s.executeUnknown).v = s.v := rfl
@[simp] theorem State.executeUnknown_pc (s : State) : (s.executeUnknown).pc = s.npc := rfl
@[simp] theorem State.executeUnknown_i (s : State) : (s.executeUnknown).i = s.i := rfl
@[simp] theorem State.executeUnknown_stack (s : State) : (s.executeUnknown).stack = s.stack := rfl
@[simp] theorem State.executeUnknown_sp (s : State) : (s.executeUnknown).sp = s.sp := rfl
@[simp] theorem State.executeUnknown_dt (s : State) : (s.executeUnknown).dt = s.dt := rfl
@[simp] theorem State.executeUnknown_st (s : State) : (s.executeUnknown).st = s.st := rfl
@[simp] theorem State.executeUnknown_wait (s : State) : (s.executeUnknown).wait = s.wait := rfl
@[simp] theorem State.executeUnknown_keys (s : State) : (s.executeUnknown).keys = s.keys := rfl
@[simp] theorem State.executeUnknown_fb (s : State) : (s.executeUnknown).fb = s.fb := rfl
@[simp] theorem State.executeUnknown_redraw (s : State) : (s.executeUnknown).redraw = s.redraw := rfl
@[simp] theorem State.executeUnknown_cond (s : State) : (s.executeUnknown).cond = .unknownOpcode := rfl
@[simp] theorem State.executeUnknown_rng (s : State) : (s.executeUnknown).rng = s.rng := rfl
@[simp] theorem State.executeUnknown_mem (s : State) : (s.executeUnknown).mem = s.mem := rfl
@[simp] theorem State.executeUnknown_getV (s : State) (r : Nibble) : (s.executeUnknown).getV r = s.getV r := rfl
@[simp] theorem State.executeUnknown_memRead (s : State) (a' : Word) : (s.executeUnknown).memRead a' = s.memRead a' := rfl

/-! ### `State.timerUpdate` -/

@[simp] theorem State.timerUpdate_v (s : State) : (s.timerUpdate).v = s.v := rfl
@[simp] theorem State.timerUpdate_pc (s : State) : (s.timerUpdate).pc = s.pc := rfl
@[simp] theorem State.timerUpdate_i (s : State) : (s.timerUpdate).i = s.i := rfl
@[simp] theorem State.timerUpdate_stack (s : State) : (s.timerUpdate).stack = s.stack := rfl
@[simp] theorem State.timerUpdate_sp (s : State) : (s.timerUpdate).sp = s.sp := rfl
@[simp] theorem State.timerUpdate_dt (s : State) : (s.timerUpdate).dt = countDown s.dt := rfl
@[simp] theorem State.timerUpdate_st (s : State) : (s.timerUpdate).st = countDown s.st := rfl
@[simp] theorem State.timerUpdate_wait (s : State) : (s.timerUpdate).wait = s.wait := rfl
@[simp] theorem State.timerUpdate_keys (s : State) : (s.timerUpdate).keys = s.keys := rfl
@[simp] theorem State.timerUpdate_fb (s : State) : (s.timerUpdate).fb = s.fb := rfl
@[simp] theorem State.timerUpdate_redraw (s : State) : (s.timerUpdate).redraw = s.redraw := rfl
@[simp] theorem State.timerUpdate_cond (s : State) : (s.timerUpdate).cond = s.cond := rfl
@[simp] theorem State.timerUpdate_rng (s : State) : (s.timerUpdate).rng = s.rng := rfl
@[simp] theorem State.timerUpdate_mem (s : State) : (s.timerUpdate).mem = s.mem := rfl
@[simp] theorem State.timerUpdate_getV (s : State) (r : Nibble) : (s.timerUpdate).getV r = s.getV r := rfl
@[simp] theorem State.timerUpdate_memRead (s : State) (a' : Word) : (s.timerUpdate).memRead a' = s.memRead a' := rfl

/-! ### `State.enterWait` -/

@[simp] theorem State.enterWait_v (s : State) (x : Nibble) : (s.enterWait x).v = s.v := rfl
@[simp] theorem State.enterWait_pc (s : State) (x : Nibble) : (s.enterWait x).pc = s.pc := rfl
@[simp] theorem State.enterWait_i (s : State) (x : Nibble) : (s.enterWait x).i = s.i := rfl
@[simp] theorem State.enterWait_stack (s : State) (x : Nibble) : (s.enterWait x).stack = s.stack := rfl
@[simp] theorem State.enterWait_sp (s : State) (x : Nibble) : (s.enterWait x).sp = s.sp := rfl
@[simp] theorem State.enterWait_dt (s : State) (x : Nibble) : (s.enterWait x).dt = s.dt := rfl
@[simp] theorem State.enterWait_st (s : State) (x : Nibble) : (s.enterWait x).st = s.st := rfl
@[simp] theorem State.enterWait_wait (s : State) (x : Nibble) : (s.enterWait x).wait = { s.wait with waiting := true, target := x, latched := false } := rfl
@[simp] theorem State.enterWait_keys (s : State) (x : Nibble) : (s.enterWait x).keys = s.keys := rfl
@[simp] theorem State.enterWait_fb (s : State) (x : Nibble) : (s.enterWait x).fb = s.fb := rfl
@[simp] theorem State.enterWait_redraw (s : State) (x : Nibble) : (s.enterWait x).redraw = s.redraw := rfl
@[simp] theorem State.enterWait_cond (s : State) (x : Nibble) : (s.enterWait x).cond = s.cond := rfl
@[simp] theorem State.enterWait_rng (s : State) (x : Nibble) : (s.enterWait x).rng = s.rng := rfl
@[simp] theorem State.enterWait_mem (s : State) (x : Nibble) : (s.enterWait x).mem = s.mem := rfl
@[simp] theorem State.enterWait_getV (s : State) (x : Nibble) (r : Nibble) : (s.enterWait x).getV r = s.getV r := rfl
@[simp] theorem State.enterWait_memRead (s : State) (x : Nibble) (a' : Word) : (s.enterWait x).memRead a' = s.memRead a' := rfl

/-! ### `State.completeWait` -/

@[simp] theorem State.completeWait_v (s : State) : (s.completeWait).v = s.v.set s.wait.target.toNat (s.wait.key.setWidth 8) s.wait.target.isLt := rfl
@[simp] theorem State.completeWait_pc (s : State) : (s.completeWait).pc = s.npc := rfl
@[simp] theorem State.completeWait_i (s : State) : (s.completeWait).i = s.i := rfl
@[simp] theorem State.completeWait_stack (s : State) : (s.completeWait).stack = s.stack := rfl
@[simp] theorem State.completeWait_sp (s : State) : (s.completeWait).sp = s.sp := rfl
@[simp] theorem State.completeWait_dt (s : State) : (s.completeWait).dt = s.dt := rfl
@[simp] theorem State.completeWait_st (s : State) : (s.completeWait).st = s.st := rfl
@[simp] theorem State.completeWait_wait (s : State) : (s.completeWait).wait = { s.wait with waiting := false, latched := false } := rfl
@[simp] theorem State.completeWait_keys (s : State) : (s.completeWait).keys = s.keys := rfl
@[simp] theorem State.completeWait_fb (s : State) : (s.completeWait).fb = s.fb := rfl
@[simp] theorem State.completeWait_redraw (s : State) : (s.completeWait).redraw = s.redraw := rfl
@[simp] theorem State.completeWait_cond (s : State) : (s.completeWait).cond = s.cond := rfl
@[simp] theorem State.completeWait_rng (s : State) : (s.completeWait).rng = s.rng := rfl
@[simp] theorem State.completeWait_mem (s : State) : (s.completeWait).mem = s.mem := rfl
@[simp] theorem State.completeWait_memRead (s : State) (a' : Word) : (s.completeWait).memRead a' = s.memRead a' := rfl

/-! ### `State.showCanvas` -/

@[simp] theorem State.showCanvas_v (s : State) (c : Canvas) : (s.showCanvas c).v = s.v := rfl
@[simp] theorem State.showCanvas_pc (s : State) (c : Canvas) : (s.showCanvas c).pc = s.pc := rfl
@[simp] theorem State.showCanvas_i (s : State) (c : Canvas) : (s.showCanvas c).i = s.i := rfl
@[simp] theorem State.showCanvas_stack (s : State) (c : Canvas) : (s.showCanvas c).stack = s.stack := rfl
@[simp] theorem State.showCanvas_sp (s : State) (c : Canvas) : (s.showCanvas c).sp = s.sp := rfl
@[simp] theorem State.showCanvas_dt (s : State) (c : Canvas) : (s.showCanvas c).dt = s.dt := rfl
@[simp] theorem State.showCanvas_st (s : State) (c : Canvas) : (s.showCanvas c).st = s.st := rfl
@[simp] theorem State.showCanvas_wait (s : State) (c : Canvas) : (s.showCanvas c).wait = s.wait := rfl
@[simp] theorem State.showCanvas_keys (s : State) (c : Canvas) : (s.showCanvas c).keys = s.keys := rfl
@[simp] theorem State.showCanvas_fb (s : State) (c : Canvas) : (s.showCanvas c).fb = c.fb := rfl
@[simp] theorem State.showCanvas_redraw (s : State) (c : Canvas) : (s.showCanvas c).redraw = (s.redraw || c.changed) := rfl
@[simp] theorem State.showCanvas_cond (s : State) (c : Canvas) : (s.showCanvas c).cond = s.cond := rfl
@[simp] theorem State.showCanvas_rng (s : State) (c : Canvas) : (s.showCanvas c).rng = s.rng := rfl
@[simp] theorem State.showCanvas_mem (s : State) (c : Canvas) : (s.showCanvas c).mem = s.mem := rfl
@[simp] theorem State.showCanvas_getV (s : State) (c : Canvas) (r : Nibble) : (s.showCanvas c).getV r = s.getV r := rfl
@[simp] theorem State.showCanvas_memRead (s : State) (c : Canvas) (a' : Word) : (s.showCanvas c).memRead a' = s.memRead a' := rfl

/-! ### `State.clearScreen` -/

@[simp] theorem State.clearScreen_v (s : State) : (s.clearScreen).v = s.v := rfl
@[simp] theorem State.clearScreen_pc (s : State) : (s.clearScreen).pc = s.pc := rfl
@[simp] theorem State.clearScreen_i (s : State) : (s.clearScreen).i = s.i := rfl
@[simp] theorem State.clearScreen_stack (s : State) : (s.clearScreen).stack = s.stack := rfl
@[simp] theorem State.clearScreen_sp (s : State) : (s.clearScreen).sp = s.sp := rfl
@[simp] theorem State.clearScreen_dt (s : State) : (s.clearScreen).dt = s.dt := rfl
@[simp] theorem State.clearScreen_st (s : State) : (s.clearScreen).st = s.st := rfl
@[simp] theorem State.clearScreen_wait (s : State) : (s.clearScreen).wait = s.wait := rfl
@[simp] theorem State.clearScreen_keys (s : State) : (s.clearScreen).keys = s.keys := rfl
@[simp] theorem State.clearScreen_fb (s : State) : (s.clearScreen).fb = Vector.replicate 32 (Vector.replicate 64 false) := rfl
@[simp] theorem State.clearScreen_redraw (s : State) : (s.clearScreen).redraw = true := rfl
@[simp] theorem State.clearScreen_cond (s : State) : (s.clearScreen).cond = s.cond := rfl
@[simp] theorem State.clearScreen_rng (s : State) : (s.clearScreen).rng = s.rng := rfl
@[simp] theorem State.clearScreen_mem (s : State) : (s.clearScreen).mem = s.mem := rfl
@[simp] theorem State.clearScreen_getV (s : State) (r : Nibble) : (s.clearScreen).getV r = s.getV r := rfl
@[simp] theorem State.clearScreen_memRead (s : State) (a' : Word) : (s.clearScreen).memRead a' = s.memRead a' := rfl

/-! ### `State.setKey` -/

@[simp] theorem State.setKey_v (s : State) (k : Nibble) (b : Bool) : (s.setKey k b).v = s.v := rfl
@[simp] theorem State.setKey_pc (s : State) (k : Nibble) (b : Bool) : (s.setKey k b).pc = s.pc := rfl
@[simp] theorem State.setKey_i (s : State) (k : Nibble) (b : Bool) : (s.setKey k b).i = s.i := rfl
@[simp] theorem State.setKey_stack (s : State) (k : Nibble) (b : Bool) : (s.setKey k b).stack = s.stack := rfl
@[simp] theorem State.setKey_sp (s : State) (k : Nibble) (b : Bool) : (s.setKey k b).sp = s.sp := rfl
@[simp] theorem State.setKey_dt (s : State) (k : Nibble) (b : Bool) : (s.setKey k b).dt = s.dt := rfl
@[simp] theorem State.setKey_st (s : State) (k : Nibble) (b : Bool) : (s.setKey k b).st = s.st := rfl
@[simp] theorem State.setKey_wait (s : State) (k : Nibble) (b : Bool) : (s.setKey k b).wait = s.wait := rfl
@[simp] theorem State.setKey_keys (s : State) (k : Nibble) (b : Bool) : (s.setKey k b).keys = s.keys.set k.toNat b k.isLt := rfl
@[simp] theorem State.setKey_fb (s : State) (k : Nibble) (b : Bool) : (s.setKey k b).fb = s.fb := rfl
@[simp] theorem State.setKey_redraw (s : State) (k : Nibble) (b : Bool) : (s.setKey k b).redraw = s.redraw := rfl
@[simp] theorem State.setKey_cond (s : State) (k : Nibble) (b : Bool) : (s.setKey k b).cond = s.cond := rfl
@[simp] theorem State.setKey_rng (s : State) (k : Nibble) (b : Bool) : (s.setKey k b).rng = s.rng := rfl
@[simp] theorem State.setKey_mem (s : State) (k : Nibble) (b : Bool) : (s.setKey k b).mem = s.mem := rfl
@[simp] theorem State.setKey_getV (s : State) (k : Nibble) (b : Bool) (r : Nibble) : (s.setKey k b).getV r = s.getV r := rfl
@[simp] theorem State.setKey_memRead (s : State) (k : Nibble) (b : Bool) (a' : Word) : (s.setKey k b).memRead a' = s.memRead a' := rfl

/-! ### `State.consumeRedraw` -/

@[simp] theorem State.consumeRedraw_v (s : State) : (s.consumeRedraw).v = s.v := rfl
@[simp] theorem State.consumeRedraw_pc (s : State) : (s.consumeRedraw).pc = s.pc := rfl
@[simp] theorem State.consumeRedraw_i (s : State) : (s.consumeRedraw).i = s.i := rfl
@[simp] theorem State.consumeRedraw_stack (s : State) : (s.consumeRedraw).stack = s.stack := rfl
@[simp] theorem State.consumeRedraw_sp (s : State) : (s.consumeRedraw).sp = s.sp := rfl
@[simp] theorem State.consumeRedraw_dt (s : State) : (s.consumeRedraw).dt = s.dt := rfl
@[simp] theorem State.consumeRedraw_st (s : State) : (s.consumeRedraw).st = s.st := rfl
@[simp] theorem State.consumeRedraw_wait (s : State) : (s.consumeRedraw).wait = s.wait := rfl
@[simp] theorem State.consumeRedraw_keys (s : State) : (s.consumeRedraw).keys = s.keys := rfl
@[simp] theorem State.consumeRedraw_fb (s : State) : (s.consumeRedraw).fb = s.fb := rfl
@[simp] theorem State.consumeRedraw_redraw (s : State) : (s.consumeRedraw).redraw = false := rfl
@[simp] theorem State.consumeRedraw_cond (s : State) : (s.consumeRedraw).cond = s.cond := rfl
@[simp] theorem State.consumeRedraw_rng (s : State) : (s.consumeRedraw).rng = s.rng := rfl
@[simp] theorem State.consumeRedraw_mem (s : State) : (s.consumeRedraw).mem = s.mem := rfl
@[simp] theorem State.consumeRedraw_getV (s : State) (r : Nibble) : (s.consumeRedraw).getV r = s.getV r := rfl
@[simp] theorem State.consumeRedraw_memRead (s : State) (a' : Word) : (s.consumeRedraw).memRead a' = s.memRead a' := rfl

/-! ### `State.reseed` -/

@[simp] theorem State.reseed_v (s : State) (n : Nat) : (s.reseed n).v = s.v := rfl
@[simp] theorem State.reseed_pc (s : State) (n : Nat) : (s.reseed n).pc = s.pc := rfl
@[simp] theorem State.reseed_i (s : State) (n : Nat) : (s.reseed n).i = s.i := rfl
@[simp] theorem State.reseed_stack (s : State) (n : Nat) : (s.reseed n).stack = s.stack := rfl
@[simp] theorem State.reseed_sp (s : State) (n : Nat) : (s.reseed n).sp = s.sp := rfl
@[simp] theorem State.reseed_dt (s : State) (n : Nat) : (s.reseed n).dt = s.dt := rfl
@[simp] theorem State.reseed_st (s : State) (n : Nat) : (s.reseed n).st = s.st := rfl
@[simp] theorem State.reseed_wait (s : State) (n : Nat) : (s.reseed n).wait = s.wait := rfl
@[simp] theorem State.reseed_keys (s : State) (n : Nat) : (s.reseed n).keys = s.keys := rfl
@[simp] theorem State.reseed_fb (s : State) (n : Nat) : (s.reseed n).fb = s.fb := rfl
@[simp] theorem State.reseed_redraw (s : State) (n : Nat) : (s.reseed n).redraw = s.redraw := rfl
@[simp] theorem State.reseed_cond (s : State) (n : Nat) : (s.reseed n).cond = s.cond := rfl
@[simp] theorem State.reseed_rng (s : State) (n : Nat) : (s.reseed n).rng = Config.rngSeed n := rfl
@[simp] theorem State.reseed_mem (s : State) (n : Nat) : (s.reseed n).mem = s.mem := rfl
@[simp] theorem State.reseed_getV (s : State) (n : Nat) (r : Nibble) : (s.reseed n).getV r = s.getV r := rfl
@[simp] theorem State.reseed_memRead (s : State) (n : Nat) (a' : Word) : (s.reseed n).memRead a' = s.memRead a' := rfl

end Sys2Proof.Machine
end

