-- ==== Sys2Proof/Laws/Ops.lean ====
section
/-! SUPPORT. What each shared operation can do, once: registers, the program counter, memory operands, the
call stack, timers, register blocks, the invariant part of each. -/

namespace Sys2Proof.Machine

/-! ### Registers and the program counter -/

theorem State.getV_setV (s : State) (x r : Nibble) (b : Byte) :
    (s.setV x b).getV r = if r = x then b else s.getV r := by
  unfold State.getV State.setV
  simp only [Vector.getElem_set]
  by_cases h : r = x
  · simp [h]
  · rw [if_neg h, if_neg]
    exact fun e => h (BitVec.eq_of_toNat_eq e.symm)

theorem State.getV_setVF (s : State) (f : Bool) (r : Nibble) :
    (s.setVF f).getV r = if r = 0xF#4 then (if f then 1 else 0) else s.getV r :=
  State.getV_setV s _ r _

/-- The flag is written last: with `x = 15` it is what `VF` holds (spec/43_alu.md R162). -/
theorem State.getV_setVFlag (s : State) (x r : Nibble) (b : Byte) (f : Bool) :
    (s.setVFlag x b f).getV r =
      if r = 0xF#4 then (if f then 1 else 0) else if r = x then b else s.getV r := by
  simp only [State.setVFlag, State.getV_setVF, State.getV_setV]

@[simp] theorem State.npc_toNat (s : State) : s.npc.toNat = (s.pc.toNat + 2) % 4096 := by
  simp only [State.npc, wrap12_toNat, BitVec.toNat_add]
  have h : (2 : Word).toNat = 2 := rfl
  omega

theorem State.advance_pc_toNat (s : State) : s.advance.pc.toNat = (s.pc.toNat + 2) % 4096 :=
  State.npc_toNat s

/-- A skip changes nothing but `pc`: four further when taken, two when not (spec/42_skips.md R144). -/
theorem State.skipIf_spec (s : State) (b : Bool) :
    ∃ a, s.skipIf b = s.setPc a ∧ (wrap12 a).toNat = (s.pc.toNat + if b then 4 else 2) % 4096 := by
  have h : (2 : Word).toNat = 2 := rfl
  cases b
  · refine ⟨s.pc + 2, rfl, ?_⟩
    simp only [wrap12_toNat, BitVec.toNat_add, Bool.false_eq_true, if_false]
    omega
  · refine ⟨s.npc + 2, rfl, ?_⟩
    simp only [wrap12_toNat, BitVec.toNat_add, State.npc_toNat, if_true]
    omega

theorem addrWord_toNat (nnn : Addr) : (addrWord nnn).toNat = nnn.toNat := by
  simp only [addrWord, BitVec.toNat_setWidth]
  omega

@[simp] theorem wrap12_addrWord (nnn : Addr) : wrap12 (addrWord nnn) = addrWord nnn := by
  apply BitVec.eq_of_toNat_eq
  rw [wrap12_toNat, addrWord_toNat]
  omega

theorem byteWord_toNat (b : Byte) : (byteWord b).toNat = b.toNat := by
  simp only [byteWord, BitVec.toNat_setWidth]
  omega

/-! ### Memory operands -/

/-- `MemRead` after `MemWrite` (spec/20_memory.md R60 to R62). -/
theorem State.memRead_memWrite (s : State) (a b : Word) (w : Byte) :
    (s.memWrite a w).memRead b = if wrap12 a = wrap12 b then w else s.memRead b := by
  unfold State.memRead State.memWrite
  simp only [Memory.read_write, BitVec.toNat_eq]

theorem wrap12_eq_iff (a b : Word) : wrap12 a = wrap12 b ↔ a.toNat % 4096 = b.toNat % 4096 := by
  rw [BitVec.toNat_eq, wrap12_toNat, wrap12_toNat]

theorem State.operandAddr_toNat (s : State) (k : Nat) :
    (s.operandAddr k).toNat % 4096 = (s.i.toNat + k) % 4096 := by
  simp only [State.operandAddr, BitVec.toNat_add, BitVec.toNat_ofNat]
  omega

/-! ### The call stack -/

/-- A push either finds sixteen entries, or writes entry `SP` and counts one more (spec/10_state.md R27). -/
theorem State.push_spec (s : State) (a : Word) :
    (s.sp.val = 16 ∧ s.push a = none) ∨
    ∃ (h : s.sp.val < 16), s.push a =
      some { s with stack := s.stack.set s.sp.val (wrap12 a) h, sp := ⟨s.sp.val + 1, by omega⟩ } := by
  by_cases h : s.sp.val < 16
  · exact .inr ⟨h, by simp [State.push, h]⟩
  · exact .inl ⟨by omega, by simp [State.push, h]⟩

/-- A pop either finds no entry, or counts one less and gives the entry there (R27). -/
theorem State.pop_spec (s : State) :
    (s.sp.val = 0 ∧ s.pop = none) ∨
    ∃ (k : Nat) (hk : k < 16), s.sp.val = k + 1 ∧
      s.pop = some (s.stack[k], { s with sp := ⟨k, by omega⟩ }) := by
  by_cases h : 0 < s.sp.val
  · exact .inr ⟨s.sp.val - 1, by omega, by omega, by simp [State.pop, h]⟩
  · exact .inl ⟨by omega, by simp [State.pop, h]⟩

/-! ### Timers -/

theorem countDown_toNat (b : Byte) : (countDown b).toNat = b.toNat - 1 := by
  unfold countDown
  split
  · next h => subst h; rfl
  · next h =>
    have h0 : b.toNat ≠ 0 := fun e => h (BitVec.eq_of_toNat_eq e)
    have h1 : (1 : Byte).toNat = 1 := rfl
    simp only [BitVec.toNat_sub, h1]
    omega

/-! ### Register blocks -/

/-- Storing `n` registers changes memory alone: the bytes at `I` to `I + n - 1` (spec/44_index_memory.md
R174). -/
theorem State.storeBlock_spec (s : State) (n : Nat) (hn : n ≤ 16) :
    (∃ m, s.storeBlock n = { s with mem := m }) ∧
    ∀ a, (s.storeBlock n).memRead a =
      if (a.toNat + 4096 - s.i.toNat % 4096) % 4096 < n
      then s.getV (BitVec.ofNat 4 ((a.toNat + 4096 - s.i.toNat % 4096) % 4096)) else s.memRead a := by
  induction n with
  | zero => exact ⟨⟨s.mem, rfl⟩, by simp [State.storeBlock]⟩
  | succ n ih =>
    obtain ⟨⟨m, hm⟩, hr⟩ := ih (by omega)
    have hi : (s.storeBlock n).i = s.i := by rw [hm]
    have hv : ∀ r, (s.storeBlock n).getV r = s.getV r := by rw [hm]; exact fun _ => rfl
    refine ⟨⟨((s.storeBlock n).memWrite (s.operandAddr n) (s.getV (BitVec.ofNat 4 n))).mem, ?_⟩, ?_⟩
    · simp only [State.storeBlock, hv, State.operandAddr, hi]
      rw [hm]; rfl
    · intro a
      have ha := s.operandAddr_toNat n
      have he : (s.storeBlock n).operandAddr n = s.operandAddr n := by simp only [State.operandAddr, hi]
      simp only [State.storeBlock, State.memRead_memWrite, wrap12_eq_iff, he, ha, hv, hr]
      by_cases h : (s.i.toNat + n) % 4096 = a.toNat % 4096
      · have e : (a.toNat + 4096 - s.i.toNat % 4096) % 4096 = n := by omega
        rw [if_pos h, if_pos (by omega), e]
      · rw [if_neg h]
        have : ¬ (a.toNat + 4096 - s.i.toNat % 4096) % 4096 = n := by omega
        by_cases h2 : (a.toNat + 4096 - s.i.toNat % 4096) % 4096 < n
        · rw [if_pos h2, if_pos (by omega)]
        · rw [if_neg h2, if_neg (by omega)]

/-- Storing a block keeps the canonical form of memory. -/
theorem State.wf_storeBlock {s : State} (h : Memory.wf s.mem = true) :
    ∀ n, Memory.wf (s.storeBlock n).mem = true
  | 0 => h
  | n + 1 => State.wf_memWrite (State.wf_storeBlock h n) _ _

/-- Loading `n` registers changes the first `n` registers alone (R175). -/
theorem State.loadBlock_spec (s : State) (n : Nat) (hn : n ≤ 16) :
    (∃ w, s.loadBlock n = { s with v := w }) ∧
    ∀ r : Nibble, (s.loadBlock n).getV r = if r.toNat < n then s.operandByte r.toNat else s.getV r := by
  induction n with
  | zero => exact ⟨⟨s.v, rfl⟩, by simp [State.loadBlock]⟩
  | succ n ih =>
    obtain ⟨⟨w, hw⟩, hr⟩ := ih (by omega)
    have hb : (s.loadBlock n).operandByte n = s.operandByte n := by rw [hw]; rfl
    refine ⟨⟨((s.loadBlock n).setV (BitVec.ofNat 4 n) (s.operandByte n)).v, ?_⟩, ?_⟩
    · simp only [State.loadBlock, hb]
      rw [hw]; rfl
    · intro r
      simp only [State.loadBlock, hb, State.getV_setV, hr]
      have e : (BitVec.ofNat 4 n).toNat = n := by rw [BitVec.toNat_ofNat]; omega
      by_cases h : r = BitVec.ofNat 4 n
      · subst h
        simp [e]
      · have : r.toNat ≠ n := fun hn' => h (BitVec.eq_of_toNat_eq (by rw [e]; exact hn'))
        rw [if_neg h]
        by_cases h2 : r.toNat < n
        · rw [if_pos h2, if_pos (by omega)]
        · rw [if_neg h2, if_neg (by omega)]

/-! ### Keys -/

theorem State.keyDown_setKey (s : State) (j k : Nibble) (b : Bool) :
    (s.setKey j b).keyDown k = if k = j then b else s.keyDown k := by
  unfold State.keyDown State.setKey
  simp only [Vector.getElem_set]
  by_cases h : k = j
  · simp [h]
  · rw [if_neg h, if_neg]
    exact fun e => h (BitVec.eq_of_toNat_eq e.symm)

/-- Setting a key to the state it has changes nothing. -/
theorem State.setKey_self (s : State) (k : Nibble) : s.setKey k (s.keyDown k) = s := by
  unfold State.setKey State.keyDown
  simp

/-- The latch changes `WAIT` alone. -/
theorem State.latchKey_spec (s : State) (k : Nibble) : ∃ w, s.latchKey k = { s with wait := w } := by
  unfold State.latchKey
  split
  · exact ⟨_, rfl⟩
  · exact ⟨s.wait, rfl⟩

end Sys2Proof.Machine
end

