-- ==== Sys2Proof/Laws/Display.lean ====
section
/-! SUPPORT. The sprite writer in closed form: what its loop over rows and columns leaves of each pixel, of the
collision and of the change mark (spec/46_display.md R187). -/

namespace Sys2Proof.Machine

theorem pixelAt_flipPixel (fb : Framebuffer) (y x y' x' : Nat) :
    pixelAt (flipPixel fb y x) y' x' =
      if y % 32 = y' % 32 ∧ x % 64 = x' % 64 then !pixelAt fb y x else pixelAt fb y' x' := by
  unfold flipPixel
  simp only [pixelAt, Vector.getElem_set]
  by_cases hy : y % 32 = y' % 32
  · by_cases hx : x % 64 = x' % 64
    · simp [hy, hx]
    · simp [hy, hx]
  · simp [hy]

theorem pixelAt_mod (fb : Framebuffer) (y x y' x' : Nat) (hy : y % 32 = y' % 32) (hx : x % 64 = x' % 64) :
    pixelAt fb y x = pixelAt fb y' x' := by
  simp only [pixelAt, hy, hx]

/-- Framebuffers that agree on every pixel are equal. -/
theorem framebuffer_ext {f g : Framebuffer} (h : ∀ y < 32, ∀ x < 64, pixelAt f y x = pixelAt g y x) : f = g := by
  apply Vector.ext
  intro y hy
  apply Vector.ext
  intro x hx
  have := h y hy x hx
  simp only [pixelAt, Nat.mod_eq_of_lt hy, Nat.mod_eq_of_lt hx] at this
  exact this

/-- How far column `x'` lies to the right of column `x`, around the screen. -/
def colOffset (x x' : Nat) : Nat := (x' % 64 + 64 - x % 64) % 64

/-- How far row `y'` lies below row `y`, around the screen. -/
def rowOffset (y y' : Nat) : Nat := (y' % 32 + 32 - y % 32) % 32

theorem colOffset_eq_iff {x x' k : Nat} (hk : k < 64) : colOffset x x' = k ↔ (x + k) % 64 = x' % 64 := by
  unfold colOffset; omega

theorem rowOffset_eq_iff {y y' k : Nat} (hk : k < 32) : rowOffset y y' = k ↔ (y + k) % 32 = y' % 32 := by
  unfold rowOffset; omega

/-- One row of a sprite: the pixels it flips, when it collides, when it changes anything. -/
theorem plotRow_spec (c : Canvas) (y x : Nat) (b : Byte) (n : Nat) (hn : n ≤ 8) :
    (∀ y' x', pixelAt (plotRow c y x b n).fb y' x' =
      xor (pixelAt c.fb y' x')
        (decide (y % 32 = y' % 32) && decide (colOffset x x' < n) && spriteBit b (colOffset x x'))) ∧
    ((plotRow c y x b n).collision = true ↔
      c.collision = true ∨ ∃ col < n, spriteBit b col = true ∧ pixelAt c.fb y (x + col) = true) ∧
    ((plotRow c y x b n).changed = true ↔ c.changed = true ∨ ∃ col < n, spriteBit b col = true) := by
  induction n with
  | zero => simp [plotRow]
  | succ n ih =>
    obtain ⟨hp, hc, hh⟩ := ih (by omega)
    have hold : pixelAt (plotRow c y x b n).fb y (x + n) = pixelAt c.fb y (x + n) := by
      have e : colOffset x (x + n) = n := (colOffset_eq_iff (by omega)).2 rfl
      simp [hp, e]
    simp only [plotRow, plot]
    by_cases hb : spriteBit b n = true
    · simp only [hb, if_true]
      refine ⟨fun y' x' => ?_, ?_, ?_⟩
      · rw [pixelAt_flipPixel, hold, hp]
        by_cases hy : y % 32 = y' % 32
        · by_cases hx : (x + n) % 64 = x' % 64
          · have e := (colOffset_eq_iff (x := x) (x' := x') (by omega : n < 64)).2 hx
            rw [if_pos ⟨hy, hx⟩, pixelAt_mod c.fb y (x + n) y' x' hy hx]
            simp [hy, e, hb]
          · have e : colOffset x x' ≠ n := fun e => hx ((colOffset_eq_iff (by omega)).1 e)
            have e2 : decide (colOffset x x' < n + 1) = decide (colOffset x x' < n) :=
              decide_eq_decide.2 (by omega)
            rw [if_neg (by tauto), e2]
        · rw [if_neg (by tauto)]
          simp [hy]
      · rw [Bool.or_eq_true, hc, hold]
        constructor
        · rintro ((h | ⟨k, hk, h⟩) | h)
          · exact .inl h
          · exact .inr ⟨k, by omega, h⟩
          · exact .inr ⟨n, by omega, hb, h⟩
        · rintro (h | ⟨k, hk, h⟩)
          · exact .inl (.inl h)
          · by_cases e : k = n
            · exact .inr (e ▸ h.2)
            · exact .inl (.inr ⟨k, by omega, h⟩)
      · exact iff_of_true trivial (.inr ⟨n, by omega, hb⟩)
    · rw [if_neg hb]
      refine ⟨fun y' x' => ?_, ?_, ?_⟩
      · rw [hp]
        by_cases e : colOffset x x' = n
        · simp [e, Bool.eq_false_iff.2 hb]
        · have e2 : decide (colOffset x x' < n + 1) = decide (colOffset x x' < n) :=
            decide_eq_decide.2 (by omega)
          rw [e2]
      · rw [hc]
        refine or_congr_right ⟨fun ⟨k, hk, h⟩ => ⟨k, by omega, h⟩, fun ⟨k, hk, h⟩ => ⟨k, ?_, h⟩⟩
        by_contra hkn
        exact hb ((by omega : k = n) ▸ h.1)
      · rw [hh]
        refine or_congr_right ⟨fun ⟨k, hk, h⟩ => ⟨k, by omega, h⟩, fun ⟨k, hk, h⟩ => ⟨k, ?_, h⟩⟩
        by_contra hkn
        exact hb ((by omega : k = n) ▸ h)

/-- The sprite's bit over display pixel `(y', x')`, drawn with `n` rows from row `y` and column `x`. -/
def State.spriteOver (s : State) (x y n y' x' : Nat) : Bool :=
  decide (rowOffset y y' < n) && decide (colOffset x x' < 8) &&
    spriteBit (s.operandByte (rowOffset y y')) (colOffset x x')

/-- The whole sprite: each pixel is exclusive-ored with the sprite's bit over it; the collision and the change
mark in terms of the sprite's own rows and columns. -/
theorem State.plotSprite_spec (s : State) (x y n : Nat) (hn : n ≤ 15) :
    (∀ y' x', pixelAt (s.plotSprite x y n).fb y' x' = xor (pixelAt s.fb y' x') (s.spriteOver x y n y' x')) ∧
    ((s.plotSprite x y n).collision = true ↔ ∃ row < n, ∃ col < 8,
      spriteBit (s.operandByte row) col = true ∧ pixelAt s.fb (y + row) (x + col) = true) ∧
    ((s.plotSprite x y n).changed = true ↔ ∃ row < n, ∃ col < 8, spriteBit (s.operandByte row) col = true) := by
  induction n with
  | zero => simp [State.plotSprite, State.spriteOver]
  | succ n ih =>
    obtain ⟨hp, hc, hh⟩ := ih (by omega)
    obtain ⟨hp', hc', hh'⟩ := plotRow_spec (s.plotSprite x y n) (y + n) x (s.operandByte n) 8 (by omega)
    simp only [State.plotSprite]
    have hrow : ∀ col < 8, pixelAt (s.plotSprite x y n).fb (y + n) (x + col) = pixelAt s.fb (y + n) (x + col) := by
      intro col _
      have e : rowOffset y (y + n) = n := (rowOffset_eq_iff (by omega)).2 rfl
      simp [hp, State.spriteOver, e]
    refine ⟨fun y' x' => ?_, ?_, ?_⟩
    · rw [hp', hp]
      unfold State.spriteOver
      by_cases hy : (y + n) % 32 = y' % 32
      · have e := (rowOffset_eq_iff (y := y) (y' := y') (by omega : n < 32)).2 hy
        simp [hy, e]
      · have e : rowOffset y y' ≠ n := fun e => hy ((rowOffset_eq_iff (by omega)).1 e)
        have e2 : decide (rowOffset y y' < n + 1) = decide (rowOffset y y' < n) :=
          decide_eq_decide.2 (by omega)
        rw [e2]
        simp [hy]
    · rw [hc', hc]
      constructor
      · rintro (⟨r, hr, h⟩ | ⟨k, hk, h1, h2⟩)
        · exact ⟨r, by omega, h⟩
        · exact ⟨n, by omega, k, hk, h1, by rw [← hrow k hk]; exact h2⟩
      · rintro ⟨r, hr, k, hk, h1, h2⟩
        by_cases e : r = n
        · subst e
          exact .inr ⟨k, hk, h1, by rw [hrow k hk]; exact h2⟩
        · exact .inl ⟨r, by omega, k, hk, h1, h2⟩
    · rw [hh', hh]
      constructor
      · rintro (⟨r, hr, h⟩ | ⟨k, hk, h⟩)
        · exact ⟨r, by omega, h⟩
        · exact ⟨n, by omega, k, hk, h⟩
      · rintro ⟨r, hr, k, hk, h⟩
        by_cases e : r = n
        · subst e; exact .inr ⟨k, hk, h⟩
        · exact .inl ⟨r, by omega, k, hk, h⟩

end Sys2Proof.Machine
end

