-- ==== Sys2Proof/Laws/Exec.lean ====
section
/-! SUPPORT. Once, over all instructions: everything an instruction's own effect can do to each piece of state.
A proof about steps cites `ExecFrame.of_exec` and never unfolds a meaning. -/

namespace Sys2Proof.Machine

open Sys2Proof.Safety

/-- What the effect of `i` from `s` to `t` leaves of each piece of state. -/
structure ExecFrame (i : Instr) (s t : State) : Prop where
  keys : t.keys = s.keys
  rng : t.rng = match i with | .rnd _ _ => Config.rngNext s.rng | _ => s.rng
  dt : t.dt = match i with | .ldDtVx x => s.getV x | _ => s.dt
  st : t.st = match i with | .ldStVx x => s.getV x | _ => s.st
  stack : (∀ nnn, i ≠ .call nnn) → t.stack = s.stack
  sp : (∀ nnn, i ≠ .call nnn) → i ≠ .ret → t.sp = s.sp
  fb : i ≠ .cls → (∀ x y n, i ≠ .drw x y n) → t.fb = s.fb ∧ t.redraw = s.redraw
  redraw : s.redraw = true → t.redraw = true
  mem : (∀ x, i ≠ .ldB x) → (∀ x, i ≠ .storeRegs x) → t.mem = s.mem
  ix : (∀ nnn, i ≠ .ldI nnn) → (∀ x, i ≠ .addI x) → (∀ x, i ≠ .ldF x) → t.i = s.i
  wait : (∀ x, i ≠ .ldVxK x) → t.wait = s.wait
  cond : t.cond = match i with
    | .sys _ => .unknownOpcode
    | .call _ => if s.sp.val = 16 then .stackOverflow else s.cond
    | .ret => if s.sp.val = 0 then .stackUnderflow else s.cond
    | _ => s.cond
  v : ∀ r, mayWriteReg i r = false → t.getV r = s.getV r

/-- A skip changes `pc` only. -/
theorem ExecFrame.of_skip (i : Instr) (s : State) (b : Bool) (h1 : ∀ nnn, i ≠ .call nnn) (h2 : i ≠ .ret)
    (h3 : ∀ x kk, i ≠ .rnd x kk) (h4 : ∀ x, i ≠ .ldDtVx x) (h5 : ∀ x, i ≠ .ldStVx x) (h6 : ∀ nnn, i ≠ .sys nnn) :
    ExecFrame i s (s.skipIf b) := by
  obtain ⟨a, e, h⟩ := s.skipIf_spec b
  rw [e]
  clear h
  exact {
    keys := rfl
    rng := by cases i <;> first | rfl | exact absurd rfl (h3 _ _)
    dt := by cases i <;> first | rfl | exact absurd rfl (h4 _)
    st := by cases i <;> first | rfl | exact absurd rfl (h5 _)
    stack := fun _ => rfl
    sp := fun _ _ => rfl
    fb := fun _ _ => ⟨rfl, rfl⟩
    redraw := fun h => h
    mem := fun _ _ => rfl
    ix := fun _ _ _ => rfl
    wait := fun _ => rfl
    cond := by cases i <;> first | rfl | exact absurd rfl (h1 _) | exact absurd rfl h2 | exact absurd rfl (h6 _)
    v := fun _ _ => rfl }

/-- Every instruction's effect has the frame. -/
theorem ExecFrame.of_exec (i : Instr) (s t : State) (h : exec i s = .next t) : ExecFrame i s t := by
  cases i
  case ret =>
    rcases s.pop_spec with ⟨h0, hp⟩ | ⟨k, hk, hs, hp⟩ <;> simp only [exec, execRet, hp] at h <;> cases h <;>
      constructor <;> (try simp_all) <;> (try (intros; rfl))
  case call n =>
    rcases s.push_spec s.npc with ⟨h0, hp⟩ | ⟨hl, hp⟩ <;> simp only [exec, execCall, hp] at h <;> cases h
    · constructor <;> (try simp_all)
    · constructor <;> (try simp_all) <;> (try (intros; rfl))
      intro e; omega
  case drw x y n =>
    cases h
    constructor <;> (try simp_all)
    simp [mayWriteReg, State.getV_setVF]; intro r hr he; exact absurd he hr
  case storeRegs x =>
    cases h
    have hx := x.isLt
    obtain ⟨⟨m, hm⟩, hr⟩ := s.storeBlock_spec (x.toNat + 1) (by omega)
    rw [hm]
    constructor <;> (try simp_all) <;> (try (intros; rfl))
  case loadRegs x =>
    cases h
    have hx := x.isLt
    obtain ⟨⟨m, hm⟩, hr⟩ := s.loadBlock_spec (x.toNat + 1) (by omega)
    rw [hm] at hr ⊢
    constructor <;> (try simp_all)
    intro r h; simp only [mayWriteReg, decide_eq_false_iff_not] at h; omega
  case ldB x => cases h; constructor <;> (try simp_all)
  case rnd x kk =>
    cases h
    constructor <;> (try simp_all [mayWriteReg, State.getV_setV])
    exact fun _ _ => rfl
  case ldVxK x => cases h; constructor <;> (try simp_all)
  case seImm => cases h; exact .of_skip _ _ _ (by simp) (by simp) (by simp) (by simp) (by simp) (by simp)
  case sneImm => cases h; exact .of_skip _ _ _ (by simp) (by simp) (by simp) (by simp) (by simp) (by simp)
  case seReg => cases h; exact .of_skip _ _ _ (by simp) (by simp) (by simp) (by simp) (by simp) (by simp)
  case sneReg => cases h; exact .of_skip _ _ _ (by simp) (by simp) (by simp) (by simp) (by simp) (by simp)
  case skp => cases h; exact .of_skip _ _ _ (by simp) (by simp) (by simp) (by simp) (by simp) (by simp)
  case sknp => cases h; exact .of_skip _ _ _ (by simp) (by simp) (by simp) (by simp) (by simp) (by simp)
  all_goals
    cases h
    constructor <;> (try simp_all [mayWriteReg, State.getV_setV, State.getV_setVFlag])

end Sys2Proof.Machine
end

