-- ==== Sys2Proof/Laws/HostOps.lean ====
section
/-! SUPPORT. The host operations: what a load leaves, and which key an integer names. -/

namespace Sys2Proof.Machine

/-- A load that fits: the reset state with the bytes written from `0x200` upward. -/
theorem State.loadProgram_fits (s : State) {bytes : List Byte} (h : bytes.length ≤ 3584) :
    s.loadProgram bytes = (.ok, { s.resetOp with mem := Memory.writeAll s.resetOp.mem 0x200 bytes }) := by
  have : ¬ 3584 < bytes.length := by omega
  simp [State.loadProgram, Memory.load, Config.maxProgram, Config.progBase, this]

/-- A load that is too long: the reset state. -/
theorem State.loadProgram_tooLong (s : State) {bytes : List Byte} (h : 3584 < bytes.length) :
    s.loadProgram bytes = (.romTooLarge, s.resetOp) := by
  simp [State.loadProgram, Memory.load, Config.maxProgram, h]

/-- The byte at one address of a program load that fits. -/
theorem State.readByte_loadProgram (s : State) {bytes : List Byte} (h : bytes.length ≤ 3584) {a : Nat} (ha : a < 4096) :
    (s.loadProgram bytes).2.readByte a =
      if 0x200 ≤ a then (bytes[a - 0x200]?).getD (s.resetOp.readByte a) else s.resetOp.readByte a := by
  have e : (s.loadProgram bytes).2 = { s.resetOp with mem := Memory.writeAll s.resetOp.mem 0x200 bytes } :=
    congrArg Prod.snd (s.loadProgram_fits h)
  unfold State.readByte
  rw [e, show a % Config.memSize = a from Nat.mod_eq_of_lt ha, Memory.read_writeAll]
  by_cases h1 : 0x200 ≤ a <;> by_cases h2 : a - 0x200 < bytes.length <;> simp [h1, h2]

/-- Memory read by a 16-bit address and by a number agree. -/
theorem State.memRead_eq_readByte (s : State) (a : Word) : s.memRead a = s.readByte a.toNat := by
  simp [State.memRead, State.readByte, Config.memSize]

/-- Reading a byte by number depends on the number modulo 4096. -/
theorem State.readByte_congr (s : State) {a b : Nat} (h : a % 4096 = b % 4096) : s.readByte a = s.readByte b := by
  simp [State.readByte, Config.memSize, h]

/-- The integer of a key names that key. -/
@[simp] theorem keyOfInt_toNat (j : Nibble) : keyOfInt (j.toNat : Int) = some j := by
  have := j.isLt
  unfold keyOfInt
  rw [if_pos (by omega)]
  congr 1
  apply BitVec.eq_of_toNat_eq
  rw [BitVec.toNat_ofInt]
  omega

/-- The latch leaves the key states. -/
@[simp] theorem State.keyDown_latchKey (s : State) (j k : Nibble) : (s.latchKey j).keyDown k = s.keyDown k := by
  obtain ⟨w, h⟩ := s.latchKey_spec j
  rw [h]
  rfl

end Sys2Proof.Machine
end

