-- ==== Sys2Proof/Laws/PerInstr.lean ====
section
/-! SUPPORT. Per instruction: its opcode is selected by the mask and match of its row (spec/30_encoding.md R96). -/

namespace Sys2Proof.Laws.RowMatch

/-- The opcode of an instruction meets the `mask` and `match` of the instruction's own row. -/
def Statement (i : Instr) : Prop := encode i &&& (rowMaskMatch i).1 = (rowMaskMatch i).2

theorem formNNN_lead (l : Nibble) (nnn : Addr) :
    formNNN l nnn &&& 0xF000#16 = formNNN l 0 := by
  apply BitVec.eq_of_getLsbD_eq
  intro j hj
  simp only [formNNN, BitVec.getLsbD_and, BitVec.getLsbD_append]
  interval_cases j <;> simp

theorem formXKK_lead (l x : Nibble) (kk : Byte) :
    formXKK l x kk &&& 0xF000#16 = formNNN l 0 := formNNN_lead l (x ++ kk)

theorem formXYN_lead (l x y n : Nibble) :
    formXYN l x y n &&& 0xF000#16 = formNNN l 0 := formNNN_lead l (x ++ (y ++ n))

theorem formXKK_ends (l x : Nibble) (kk : Byte) :
    formXKK l x kk &&& 0xF0FF#16 = formXKK l 0 kk := by
  apply BitVec.eq_of_getLsbD_eq
  intro j hj
  simp only [formXKK, BitVec.getLsbD_and, BitVec.getLsbD_append]
  interval_cases j <;> simp

theorem formXYN_ends (l x y n : Nibble) :
    formXYN l x y n &&& 0xF00F#16 = formXYN l 0 0 n := by
  apply BitVec.eq_of_getLsbD_eq
  intro j hj
  simp only [formXYN, BitVec.getLsbD_and, BitVec.getLsbD_append]
  interval_cases j <;> simp

theorem sys (nnn : Addr) : Statement (.sys nnn) := formNNN_lead _ _
theorem cls : Statement .cls := rfl
theorem ret : Statement .ret := rfl
theorem jp (nnn : Addr) : Statement (.jp nnn) := formNNN_lead _ _
theorem call (nnn : Addr) : Statement (.call nnn) := formNNN_lead _ _
theorem seImm (x : Nibble) (kk : Byte) : Statement (.seImm x kk) := formXKK_lead _ _ _
theorem sneImm (x : Nibble) (kk : Byte) : Statement (.sneImm x kk) := formXKK_lead _ _ _
theorem seReg (x : Nibble) (y : Nibble) : Statement (.seReg x y) := formXYN_ends _ _ _ _
theorem ldImm (x : Nibble) (kk : Byte) : Statement (.ldImm x kk) := formXKK_lead _ _ _
theorem addImm (x : Nibble) (kk : Byte) : Statement (.addImm x kk) := formXKK_lead _ _ _
theorem ldReg (x : Nibble) (y : Nibble) : Statement (.ldReg x y) := formXYN_ends _ _ _ _
theorem orReg (x : Nibble) (y : Nibble) : Statement (.orReg x y) := formXYN_ends _ _ _ _
theorem andReg (x : Nibble) (y : Nibble) : Statement (.andReg x y) := formXYN_ends _ _ _ _
theorem xorReg (x : Nibble) (y : Nibble) : Statement (.xorReg x y) := formXYN_ends _ _ _ _
theorem addReg (x : Nibble) (y : Nibble) : Statement (.addReg x y) := formXYN_ends _ _ _ _
theorem sub (x : Nibble) (y : Nibble) : Statement (.sub x y) := formXYN_ends _ _ _ _
theorem shr (x : Nibble) (y : Nibble) : Statement (.shr x y) := formXYN_ends _ _ _ _
theorem subn (x : Nibble) (y : Nibble) : Statement (.subn x y) := formXYN_ends _ _ _ _
theorem shl (x : Nibble) (y : Nibble) : Statement (.shl x y) := formXYN_ends _ _ _ _
theorem sneReg (x : Nibble) (y : Nibble) : Statement (.sneReg x y) := formXYN_ends _ _ _ _
theorem ldI (nnn : Addr) : Statement (.ldI nnn) := formNNN_lead _ _
theorem jpV0 (nnn : Addr) : Statement (.jpV0 nnn) := formNNN_lead _ _
theorem rnd (x : Nibble) (kk : Byte) : Statement (.rnd x kk) := formXKK_lead _ _ _
theorem drw (x : Nibble) (y : Nibble) (n : Nibble) : Statement (.drw x y n) := formXYN_lead _ _ _ _
theorem skp (x : Nibble) : Statement (.skp x) := formXKK_ends _ _ _
theorem sknp (x : Nibble) : Statement (.sknp x) := formXKK_ends _ _ _
theorem ldVxDt (x : Nibble) : Statement (.ldVxDt x) := formXKK_ends _ _ _
theorem ldVxK (x : Nibble) : Statement (.ldVxK x) := formXKK_ends _ _ _
theorem ldDtVx (x : Nibble) : Statement (.ldDtVx x) := formXKK_ends _ _ _
theorem ldStVx (x : Nibble) : Statement (.ldStVx x) := formXKK_ends _ _ _
theorem addI (x : Nibble) : Statement (.addI x) := formXKK_ends _ _ _
theorem ldF (x : Nibble) : Statement (.ldF x) := formXKK_ends _ _ _
theorem ldB (x : Nibble) : Statement (.ldB x) := formXKK_ends _ _ _
theorem storeRegs (x : Nibble) : Statement (.storeRegs x) := formXKK_ends _ _ _
theorem loadRegs (x : Nibble) : Statement (.loadRegs x) := formXKK_ends _ _ _

end Sys2Proof.Laws.RowMatch
end

