-- ==== Sys2Proof/Tests/Slice0.lean ====
section
/-! SUPPORT. Small tests: ill-formed terms, one decoding per row of the opcode table, single steps, and a witness
for the hypotheses of each statement. Expected values come from spec/95_test_vectors.md (the vector is named in
each comment) and spec/30_encoding.md, never from the model. -/

namespace Sys2Proof.Tests

open Sys2Proof.Machine Sys2Proof.Safety

/-! ### Helpers -/

/-- The state after a load of one opcode (the vectors' start state). -/
def boot (op : Nat) : State := State.reset.withFetchWord 16 op

/-- `boot` with `V1`, `V2` and `VF` set. -/
def bootV (op : Nat) (v1 v2 vf : Byte) : State := (((boot op).setV 1 v1).setV 2 v2).setV 15 vf

/-- What one step leaves in the part that `f` reads. -/
def see {α : Type} (f : State → α) (s : State) : Option α :=
  match step s with
  | .next t => some (f t)
  | .fault _ => none
  | .refused _ => none

/-- The three registers of the arithmetic vectors, `pc` and `COND`. -/
def alu (s : State) : Byte × Byte × Byte × Word × Cond := (s.getV 1, s.getV 2, s.getV 15, s.pc, s.cond)

/-- `pc` and `COND`. -/
def flow (s : State) : Word × Cond := (s.pc, s.cond)

/-- The numbers of the pixels that are on, in snapshot order. -/
def lit (s : State) : List Nat := (s.pixelSnapshot.zipIdx.filter fun p => p.1).map fun p => p.2

/-! ### Well-formedness: each check refuses a term -/

theorem test_wf_sys_is_not_cls : WellFormed (.sys 0x0E0) = false := by decide
theorem test_wf_sys_is_not_ret : WellFormed (.sys 0x0EE) = false := by decide
theorem test_wf_sys_neighbour : WellFormed (.sys 0x0E1) = true := by decide

/-! ### Decoding: a word written out from spec/30_encoding.md R91, R96, for every row -/

theorem test_decode_flow :
    decode 0b0000_0001_0010_0011#16 = .ok (.sys 0x123) ∧
    decode 0b0000_0000_1110_0000#16 = .ok .cls ∧
    decode 0b0000_0000_1110_1110#16 = .ok .ret ∧
    decode 0b0001_1010_1011_1100#16 = .ok (.jp 0xABC) ∧
    decode 0b0010_0011_0000_0001#16 = .ok (.call 0x301) ∧
    decode 0b1011_1111_1111_1110#16 = .ok (.jpV0 0xFFE) := by decide

theorem test_decode_skips :
    decode 0b0011_0001_0100_0010#16 = .ok (.seImm 1 0x42) ∧
    decode 0b0100_1110_1000_0001#16 = .ok (.sneImm 14 0x81) ∧
    decode 0b0101_0001_0010_0000#16 = .ok (.seReg 1 2) ∧
    decode 0b1001_1101_0011_0000#16 = .ok (.sneReg 13 3) ∧
    decode 0b1110_0101_1001_1110#16 = .ok (.skp 5) ∧
    decode 0b1110_1010_1010_0001#16 = .ok (.sknp 10) := by decide

theorem test_decode_alu :
    decode 0b0110_0001_0000_0101#16 = .ok (.ldImm 1 0x05) ∧
    decode 0b0111_1111_1000_0001#16 = .ok (.addImm 15 0x81) ∧
    decode 0b1000_0001_0010_0000#16 = .ok (.ldReg 1 2) ∧
    decode 0b1000_0001_0010_0001#16 = .ok (.orReg 1 2) ∧
    decode 0b1000_0001_0010_0010#16 = .ok (.andReg 1 2) ∧
    decode 0b1000_0001_0010_0011#16 = .ok (.xorReg 1 2) ∧
    decode 0b1000_0001_0010_0100#16 = .ok (.addReg 1 2) := by decide

theorem test_decode_flags :
    decode 0b1000_0001_0010_0101#16 = .ok (.sub 1 2) ∧
    decode 0b1000_0001_0010_0110#16 = .ok (.shr 1 2) ∧
    decode 0b1000_0001_0010_0111#16 = .ok (.subn 1 2) ∧
    decode 0b1000_0001_0010_1110#16 = .ok (.shl 1 2) := by decide

theorem test_decode_index :
    decode 0b1010_0010_0000_0001#16 = .ok (.ldI 0x201) ∧
    decode 0b1111_0110_0001_1110#16 = .ok (.addI 6) ∧
    decode 0b1111_0111_0010_1001#16 = .ok (.ldF 7) ∧
    decode 0b1111_1000_0011_0011#16 = .ok (.ldB 8) ∧
    decode 0b1111_1001_0101_0101#16 = .ok (.storeRegs 9) ∧
    decode 0b1111_1010_0110_0101#16 = .ok (.loadRegs 10) := by decide

theorem test_decode_units :
    decode 0b1100_0001_0000_1111#16 = .ok (.rnd 1 0x0F) ∧
    decode 0b1101_0001_0010_0011#16 = .ok (.drw 1 2 3) ∧
    decode 0b1111_0001_0000_0111#16 = .ok (.ldVxDt 1) ∧
    decode 0b1111_0011_0000_1010#16 = .ok (.ldVxK 3) ∧
    decode 0b1111_0010_0001_0101#16 = .ok (.ldDtVx 2) ∧
    decode 0b1111_0100_0001_1000#16 = .ok (.ldStVx 4) := by decide

/-- The regions of the unknown space (R97; vectors SK11, SK12, AL25, AL26, KY8, CN2). -/
theorem test_decode_unknown :
    decode 0x5121 = .error .unknown5 ∧ decode 0x8128 = .error .unknown8 ∧ decode 0x812F = .error .unknown8 ∧
    decode 0x912F = .error .unknown9 ∧ decode 0xE19F = .error .unknownE ∧ decode 0xFFFF = .error .unknownF ∧
    decodeBytes [0x60] = .error .truncated := by decide

theorem test_encode_bytes : encodeBytes (.drw 0 0 5) = [0xD0, 0x05] := by decide

/-! ### Reset and load (RS7, S1) -/

theorem test_font :
    [State.reset.readByte 0x050, State.reset.readByte 0x051, State.reset.readByte 0x09B, State.reset.readByte 0x09F,
      State.reset.readByte 0x0A0, State.reset.readByte 0x04F] = [0xF0, 0x90, 0xF0, 0x80, 0, 0] := by decide

theorem test_load :
    (fun r : LoadResult × State => (r.1, r.2.readByte 0x200, r.2.readByte 0x201, r.2.readByte 0x202, r.2.pc))
      (State.reset.loadProgram [0x60, 0x05]) = (.ok, 0x60, 0x05, 0, 0x200) := by decide

/-! ### Single steps -/

/-- CF12. -/
theorem test_sys : see flow (boot 0x0123) = some (0x202, .unknownOpcode) := by decide

/-- CN2. -/
theorem test_unknown_opcode : see flow (boot 0xFFFF) = some (0x202, .unknownOpcode) := by decide

/-- DR11. -/
theorem test_cls : see (fun t => (lit t, t.redraw, t.pc)) { boot 0x00E0 with fb := flipPixel State.reset.fb 3 4, redraw := false } = some ([], true, 0x202) := by decide +kernel

/-- CF7, step 2. -/
theorem test_ret : see (fun t => (t.pc, t.sp)) { boot 0x00EE with sp := 1, stack := State.reset.stack.set 0 0x202 } = some (0x202, 0) := by decide

/-- CF5. -/
theorem test_ret_underflow : see (fun t => (t.pc, t.sp, t.cond)) (boot 0x00EE) = some (0x202, 0, .stackUnderflow) := by decide

/-- CF1. -/
theorem test_jp : see flow (boot 0x1ABC) = some (0xABC, .none) := by decide

/-- CF3. -/
theorem test_jp_odd : see flow (boot 0x1201) = some (0x201, .none) := by decide

/-- CF4. -/
theorem test_call : see (fun t => (t.pc, t.sp, t.stack[0])) (boot 0x2300) = some (0x300, 1, 0x202) := by decide

/-- CF6, step 17. -/
theorem test_call_overflow : see (fun t => (t.pc, t.sp, t.stack[15], t.cond)) { boot 0x2200 with sp := 16, stack := Vector.replicate 16 0x202 } = some (0x202, 16, 0x202, .stackOverflow) := by decide

/-- CF8. -/
theorem test_jp_v0 : see flow ((boot 0xB300).setV 0 0x10) = some (0x310, .none) := by decide

/-- CF10. -/
theorem test_jp_v0_wraps : see flow ((boot 0xBFFF).setV 0 0xFF) = some (0x0FE, .none) := by decide

/-- SK1. -/
theorem test_se_byte : see flow (bootV 0x3142 0x42 0 0) = some (0x204, .none) := by decide

/-- SK2. -/
theorem test_se_byte_not : see flow (bootV 0x3142 0x43 0 0) = some (0x202, .none) := by decide

/-- SK3. -/
theorem test_sne_byte : see flow (bootV 0x4142 0x42 0 0) = some (0x202, .none) := by decide

/-- SK4. -/
theorem test_sne_byte_skip : see flow (bootV 0x4142 0x43 0 0) = some (0x204, .none) := by decide

/-- SK5. -/
theorem test_se_reg : see flow (bootV 0x5120 7 7 0) = some (0x204, .none) := by decide

/-- SK6. -/
theorem test_se_reg_not : see flow (bootV 0x5120 7 8 0) = some (0x202, .none) := by decide

/-- SK7. -/
theorem test_sne_reg : see flow (bootV 0x9120 7 7 0) = some (0x202, .none) := by decide

/-- SK8. -/
theorem test_sne_reg_skip : see flow (bootV 0x9120 7 8 0) = some (0x204, .none) := by decide

/-- SK13. -/
theorem test_skip_wraps : see State.pc ((State.reset.setPc 0xFFE).withFetchWord 16 0x3000) = some 0x002 := by decide

/-- AL1. -/
theorem test_ld_byte : see alu (bootV 0x6105 0 0 0x77) = some (0x05, 0, 0x77, 0x202, .none) := by decide

/-- AL2. -/
theorem test_add_byte : see alu (bootV 0x7101 0xFF 0 0x77) = some (0, 0, 0x77, 0x202, .none) := by decide

/-- AL5. -/
theorem test_ld_reg : see alu (bootV 0x8120 0x11 0x22 0x77) = some (0x22, 0x22, 0x77, 0x202, .none) := by decide

/-- AL6. -/
theorem test_or : see alu (bootV 0x8121 0x0F 0xF0 0x77) = some (0xFF, 0xF0, 0x77, 0x202, .none) := by decide

/-- AL7. -/
theorem test_and : see alu (bootV 0x8122 0x3C 0x0F 0x77) = some (0x0C, 0x0F, 0x77, 0x202, .none) := by decide

/-- AL8. -/
theorem test_xor : see alu (bootV 0x8123 0xFF 0x0F 0x77) = some (0xF0, 0x0F, 0x77, 0x202, .none) := by decide

/-- AL9. -/
theorem test_add_reg : see alu (bootV 0x8124 0xFF 0x01 0x77) = some (0, 0x01, 1, 0x202, .none) := by decide

/-- AF1. -/
theorem test_add_reg_vf : see alu (bootV 0x8F24 0 0x01 0xFF) = some (0, 0x01, 1, 0x202, .none) := by decide

/-- AL13. -/
theorem test_sub : see alu (bootV 0x8125 0x03 0x05 0x77) = some (0xFE, 0x05, 0, 0x202, .none) := by decide

/-- AL14. -/
theorem test_sub_equal : see alu (bootV 0x8125 0x07 0x07 0x77) = some (0, 0x07, 1, 0x202, .none) := by decide

/-- AL16. -/
theorem test_shr : see alu (bootV 0x8126 0x05 0xAA 0x77) = some (0x02, 0xAA, 1, 0x202, .none) := by decide

/-- AF5. -/
theorem test_shr_vf : see alu (bootV 0x8F26 0 0 0x03) = some (0, 0, 1, 0x202, .none) := by decide

/-- AL20. -/
theorem test_subn : see alu (bootV 0x8127 0x05 0x03 0x77) = some (0xFE, 0x03, 0, 0x202, .none) := by decide

/-- AF7. -/
theorem test_subn_vf : see alu (bootV 0x8F27 0 0x05 0x03) = some (0, 0x05, 1, 0x202, .none) := by decide

/-- AL22. -/
theorem test_shl : see alu (bootV 0x812E 0x81 0xAA 0x77) = some (0x02, 0xAA, 1, 0x202, .none) := by decide

/-- AF6. -/
theorem test_shl_vf : see alu (bootV 0x8F2E 0 0 0x7F) = some (0, 0, 0, 0x202, .none) := by decide

/-- IX1. -/
theorem test_ld_i : see (fun t => (t.i, t.pc)) (boot 0xAFFF) = some (0xFFF, 0x202) := by decide

/-- IX2. -/
theorem test_add_i : see (fun t => (t.i, t.getV 15, t.pc)) ((bootV 0xF11E 2 0 0x77).setI 0xFFF) = some (0x001, 0x77, 0x202) := by decide

/-- IX7. -/
theorem test_ld_f : see (fun t => (t.i, t.pc)) (bootV 0xF129 0x0A 0 0) = some (0x082, 0x202) := by decide

/-- IX11. -/
theorem test_ld_f_low_nibble : see State.i (bootV 0xF129 0xFF 0 0) = some 0x09B := by decide

/-- IX14. -/
theorem test_ld_b : see (fun t => (t.memRead 0x300, t.memRead 0x301, t.memRead 0x302, t.i)) ((bootV 0xF133 156 0 0).setI 0x300) = some (1, 5, 6, 0x300) := by decide

/-- IX18. -/
theorem test_ld_b_wraps : see (fun t => (t.memRead 0xFFF, t.memRead 0x000, t.memRead 0x001)) ((bootV 0xF133 123 0 0).setI 0xFFF) = some (1, 2, 3) := by decide

/-- IX20. -/
theorem test_store_regs : see (fun t => (t.memRead 0x300, t.memRead 0x301, t.i)) ((((boot 0xF055).setV 0 0x11).setV 1 0x22).setI 0x300) = some (0x11, 0, 0x300) := by decide

/-- IX21. -/
theorem test_store_regs_wraps : see (fun t => (t.memRead 0xFFF, t.memRead 0x000, t.memRead 0x007, t.i)) ({ boot 0xFF55 with v := Vector.ofFn fun r => 0xA0 + BitVec.ofNat 8 r.val, i := 0xFF8 }) = some (0xA7, 0xA8, 0xAF, 0xFF8) := by decide +kernel

/-- IX22. -/
theorem test_load_regs : see (fun t => (t.getV 0, t.getV 1, t.getV 2, t.getV 3, t.i)) (((boot 0xF265).setV 3 0x99).setI 0x050) = some (0xF0, 0x90, 0x90, 0x99, 0x050) := by decide

/-- IX24. -/
theorem test_load_regs_itself : see (fun t => (t.getV 0, t.getV 1)) ((boot 0xF165).setI 0x200) = some (0xF1, 0x65) := by decide

/-- RN1 and RN3, for the free draw: masked by `kk`, `VF` kept. -/
theorem test_rnd : see (fun t => (t.getV 1, t.getV 15, t.pc)) (bootV 0xC10F 0 0 0x77) =
    some (Config.rngDraw (boot 0xC10F).rng &&& 0x0F, 0x77, 0x202) := rfl

/-- DR1. -/
theorem test_drw : see (fun t => (lit t, t.getV 15, t.redraw, t.pc, t.i)) { (boot 0xD015).setI 0x050 with redraw := false } = some ([0, 1, 2, 3, 64, 67, 128, 131, 192, 195, 256, 257, 258, 259], 0, true, 0x202, 0x050) := by decide +kernel

/-- DR8. -/
theorem test_drw_collision : see (fun t => (lit t, t.getV 15, t.redraw)) { ((boot 0xD121).memWrite 0x300 0xC0).setI 0x300 with fb := flipPixel State.reset.fb 0 0, redraw := false } = some ([1], 1, true) := by decide +kernel

/-- DR5: pixel (6, 31). -/
theorem test_drw_wraps : see lit { ((bootV 0xD121 0xFF 0xFF 0).memWrite 0x300 0x01).setI 0x300 with redraw := false } = some [1990] := by decide +kernel

/-- TM6. -/
theorem test_ld_vx_dt : see (fun t => (t.getV 1, t.dt, t.st)) { boot 0xF107 with dt := 9, st := 1 } = some (9, 8, 0) := by decide

/-- TM1. -/
theorem test_ld_dt_vx : see (fun t => (t.dt, t.pc)) (bootV 0xF115 5 0 0) = some (4, 0x202) := by decide

/-- TM5. -/
theorem test_ld_st_vx : see (fun t => (t.st, t.pc)) (bootV 0xF118 0xFF 0 0) = some (254, 0x202) := by decide

/-- KY1. -/
theorem test_skp : see State.pc ((bootV 0xE19E 5 0 0).press 5) = some 0x204 := by decide

/-- KY5. -/
theorem test_skp_no_such_key : see State.pc { bootV 0xE19E 0x10 0 0 with keys := Vector.replicate 16 true } = some 0x202 := by decide

/-- KY3. -/
theorem test_sknp : see State.pc ((bootV 0xE1A1 5 0 0).press 5) = some 0x202 := by decide

/-- KY6. -/
theorem test_sknp_no_such_key : see State.pc { bootV 0xE1A1 0x10 0 0 with keys := Vector.replicate 16 true } = some 0x204 := by decide

/-- KW1, step 1. -/
theorem test_wait_entered : see (fun t => (t.pc, t.wait.waiting, t.wait.target, t.wait.latched, t.dt)) { boot 0xF30A with dt := 5 } = some (0x200, true, 3, false, 4) := by decide

/-- KW1, step 4. -/
theorem test_wait_completes : see (fun t => (t.pc, t.getV 3, t.wait.waiting, t.wait.latched, t.dt)) ({ boot 0xF30A with dt := 2, wait := { waiting := true, target := 3, latched := false, key := 0 } }.press 7) = some (0x202, 7, false, false, 1) := by decide

/-- CF15. -/
theorem test_fetch_wraps : see (fun t => (t.getV 1, t.pc)) (((State.reset.setPc 0xFFF).memWrite 0xFFF 0x61).memWrite 0x000 0x07) = some (7, 0x001) := by decide

/-! ### Witnesses: a state and operands that meet the hypotheses of each statement together

A statement without hypotheses needs none. One theorem per clause where a statement has several. -/

/-- `boot` in the wait that `F30A` enters. -/
def waitingOn3 : State := { boot 0xF30A with wait := { waiting := true, target := 3, latched := false, key := 0 } }

/-- The same wait with key 7 latched. -/
def latched7 : State := waitingOn3.press 7

theorem witness_DecodeEncodeRoundTrip :
    WellFormed (.sys 0x0EF) = true ∧ WellFormed .ret = true ∧ WellFormed (.drw 15 15 15) = true := by decide

theorem witness_EncodeDecodeRoundTrip : decode 0xFF65 = .ok (.loadRegs 15) := by decide

theorem witness_MemoryReadsLastWrite_same : SameByte 0x1FFF 0x0FFF := by unfold SameByte; decide
theorem witness_MemoryReadsLastWrite_other : ¬ SameByte 0x0FFF 0x0000 := by unfold SameByte; decide

theorem witness_PlacedOpcodeIsFetched : 65535 < 65536 ∧ decodeTableWord 16 0 = some (.sys 0) := by decide

theorem witness_StepRunsDecodedInstruction :
    (boot 0x6105).wait.waiting = false ∧ decode (boot 0x6105).fetchOpcode = .ok (.ldImm 1 5) := by decide

theorem witness_UnknownOpcodeIsNoop_unknown :
    (boot 0x5121).wait.waiting = false ∧ ∃ r, decode (boot 0x5121).fetchOpcode = .error r :=
  ⟨by decide, .unknown5, by decide⟩
theorem witness_UnknownOpcodeIsNoop_sys :
    (boot 0x0000).wait.waiting = false ∧ ∃ nnn, decode (boot 0x0000).fetchOpcode = .ok (.sys nnn) :=
  ⟨by decide, 0, by decide⟩

theorem witness_WaitingStepMovesTimersOnly :
    waitingOn3.wait.waiting = true ∧ waitingOn3.wait.latched = false := by decide

theorem witness_CompletingStepStoresKey :
    latched7.wait.waiting = true ∧ latched7.wait.latched = true ∧ (2 : Nibble) ≠ latched7.wait.target := by decide

theorem witness_TimersFallByOnePerStep_load :
    (∃ t, step (bootV 0xF115 5 0 0) = .next t) ∧ stepInstr (bootV 0xF115 5 0 0) = some (.ldDtVx 1) :=
  ⟨⟨_, rfl⟩, by decide⟩
theorem witness_TimersFallByOnePerStep_atZero : ∃ t, step (boot 0x6105) = .next t := ⟨_, rfl⟩
theorem witness_TimersFallByOnePerStep_host :
    HostOp.press 3 ≠ .step ∧ HostOp.press 3 ≠ .reset ∧ (∀ bytes, HostOp.press 3 ≠ .loadProgram bytes) ∧
    ∃ t, applyOp (.press 3) (boot 0x6105) = .next t :=
  ⟨by decide, by decide, by simp, _, rfl⟩

theorem witness_StepChangesInTotal_instruction :
    (∃ t, step (boot 0x6105) = .next t) ∧ stepInstr (boot 0x6105) = some (.ldImm 1 5) ∧
    ∃ u, exec (.ldImm 1 5) ((boot 0x6105).setCond .none) = .next u :=
  ⟨⟨_, rfl⟩, by decide, _, rfl⟩
theorem witness_StepChangesInTotal_unknown :
    (∃ t, step (boot 0x5121) = .next t) ∧ (boot 0x5121).wait.waiting = false ∧ stepInstr (boot 0x5121) = none :=
  ⟨⟨_, rfl⟩, by decide, by decide⟩
theorem witness_StepChangesInTotal_waiting :
    (∃ t, step waitingOn3 = .next t) ∧ waitingOn3.wait.waiting = true ∧ waitingOn3.wait.latched = false :=
  ⟨⟨_, rfl⟩, by decide, by decide⟩
theorem witness_StepChangesInTotal_completing :
    (∃ t, step latched7 = .next t) ∧ latched7.wait.waiting = true ∧ latched7.wait.latched = true ∧
    (2 : Nibble) ≠ latched7.wait.target :=
  ⟨⟨_, rfl⟩, by decide, by decide, by decide⟩

theorem witness_ConditionOfEachStep : ∃ t, step (boot 0x00EE) = .next t := ⟨_, rfl⟩

theorem witness_RegistersWrittenOnlyAsListed_instruction :
    (∃ t, step (boot 0x6105) = .next t) ∧ (∀ i, stepInstr (boot 0x6105) = some i → mayWriteReg i 2 = false) ∧
    ((boot 0x6105).wait.waiting = true → (boot 0x6105).wait.latched = true → 2 ≠ (boot 0x6105).wait.target) := by
  refine ⟨⟨_, rfl⟩, fun i h => ?_, by decide⟩
  rw [show stepInstr (boot 0x6105) = some (.ldImm 1 5) by decide] at h
  cases h
  rfl
theorem witness_RegistersWrittenOnlyAsListed_completing :
    (∃ t, step latched7 = .next t) ∧ (∀ i, stepInstr latched7 = some i → mayWriteReg i 2 = false) ∧
    (latched7.wait.waiting = true → latched7.wait.latched = true → 2 ≠ latched7.wait.target) := by
  refine ⟨⟨_, rfl⟩, fun i h => ?_, by decide⟩
  rw [show stepInstr latched7 = none by decide] at h
  cases h

theorem witness_StackChangedOnlyByCallAndRet_ret :
    (∃ t, step (boot 0x00EE) = .next t) ∧ ∀ nnn, stepInstr (boot 0x00EE) ≠ some (.call nnn) := by
  refine ⟨⟨_, rfl⟩, fun nnn h => ?_⟩
  rw [show stepInstr (boot 0x00EE) = some .ret by decide] at h
  cases h
theorem witness_StackChangedOnlyByCallAndRet_other :
    (∃ t, step (boot 0x6105) = .next t) ∧ (∀ nnn, stepInstr (boot 0x6105) ≠ some (.call nnn)) ∧
    stepInstr (boot 0x6105) ≠ some .ret := by
  rw [show stepInstr (boot 0x6105) = some (.ldImm 1 5) by decide]
  exact ⟨⟨_, rfl⟩, by simp, by simp⟩

theorem witness_DisplayChangedOnlyByClsAndDrw :
    (∃ t, step (boot 0x6105) = .next t) ∧ (boot 0x6105).redraw = true ∧ stepInstr (boot 0x6105) ≠ some .cls ∧
    ∀ x y n, stepInstr (boot 0x6105) ≠ some (.drw x y n) := by
  rw [show stepInstr (boot 0x6105) = some (.ldImm 1 5) by decide]
  exact ⟨⟨_, rfl⟩, by decide, by simp, by simp⟩

theorem witness_MemoryIndexAndWaitWriters :
    (∃ t, step (boot 0x6105) = .next t) ∧ (∀ x, stepInstr (boot 0x6105) ≠ some (.ldB x)) ∧
    (∀ x, stepInstr (boot 0x6105) ≠ some (.storeRegs x)) ∧ (∀ nnn, stepInstr (boot 0x6105) ≠ some (.ldI nnn)) ∧
    (∀ x, stepInstr (boot 0x6105) ≠ some (.addI x)) ∧ (∀ x, stepInstr (boot 0x6105) ≠ some (.ldF x)) ∧
    (∀ x, stepInstr (boot 0x6105) ≠ some (.ldVxK x)) ∧
    ((boot 0x6105).wait.waiting = true → (boot 0x6105).wait.latched = false) := by
  rw [show stepInstr (boot 0x6105) = some (.ldImm 1 5) by decide]
  exact ⟨⟨_, rfl⟩, by simp, by simp, by simp, by simp, by simp, by simp, by decide⟩
theorem witness_MemoryIndexAndWaitWriters_waiting :
    (∃ t, step waitingOn3 = .next t) ∧ (∀ x, stepInstr waitingOn3 ≠ some (.ldVxK x)) ∧
    (waitingOn3.wait.waiting = true → waitingOn3.wait.latched = false) := by
  rw [show stepInstr waitingOn3 = none by decide]
  exact ⟨⟨_, rfl⟩, by simp, by decide⟩

theorem witness_HostOnlyStateIsNeverRead : ∃ t, exec (.call 0x300) (boot 0x2300) = .next t := ⟨_, rfl⟩

theorem witness_StepKeepsInvariant_running : LegalState (boot 0x6105) ∧ ∃ t, step (boot 0x6105) = .next t :=
  ⟨by unfold LegalState; decide, _, rfl⟩
theorem witness_StepKeepsInvariant_completing : LegalState latched7 ∧ ∃ t, step latched7 = .next t :=
  ⟨by unfold LegalState; decide, _, rfl⟩

theorem witness_ReachableStatesMeetInvariant_operation :
    LegalState (boot 0x6105) ∧ ∃ t, applyOp (.press 3) (boot 0x6105) = .next t :=
  ⟨by unfold LegalState; decide, _, rfl⟩
theorem witness_ReachableStatesMeetInvariant_run :
    ∃ t, runOps [.loadProgram [0xF3, 0x0A], .step, .press 7, .step] State.reset = .next t := ⟨_, rfl⟩

theorem witness_ResetValues_memory : (0x04F < 4096 ∧ 0x04F < 0x050) ∧ 0x0A0 < 4096 ∧ 0x0A0 ≤ 0x0A0 := by decide

/-- A program of `n` bytes. -/
def program (n : Nat) : List Byte := List.replicate n 0xAB

theorem program_length (n : Nat) : (program n).length = n := List.length_replicate

theorem witness_LoadedProgramReadsBack_fits : (program 3584).length ≤ 3584 ∧ 3583 < (program 3584).length := by
  rw [program_length]; omega
theorem witness_LoadedProgramReadsBack_tooLong : 3584 < (program 3585).length := by rw [program_length]; omega

theorem witness_LoadProgramResetsThenCopies_empty :
    (program 0).length ≤ 3584 ∧ 0x200 < 4096 ∧ 0x200 + (program 0).length ≤ 0x200 := by rw [program_length]; omega
theorem witness_LoadProgramResetsThenCopies_fits :
    (program 3584).length ≤ 3584 ∧ 3583 < (program 3584).length ∧ 0x1FF < 4096 ∧ 0x1FF < 0x200 := by rw [program_length]; omega
theorem witness_LoadProgramResetsThenCopies_tooLong : 3584 < (program 3585).length := by rw [program_length]; omega

theorem witness_PressAndReleaseKeys_badIndex :
    ¬ (0 ≤ (-1 : Int) ∧ (-1 : Int) ≤ 15) ∧ ¬ (0 ≤ (16 : Int) ∧ (16 : Int) ≤ 15) := by decide
theorem witness_PressAndReleaseKeys_ends :
    (0 : Int) = ((0 : Nibble).toNat : Int) ∧ (15 : Int) = ((15 : Nibble).toNat : Int) ∧ (14 : Nibble) ≠ 15 := by decide
theorem witness_PressAndReleaseKeys_repeat :
    ((boot 0).press 15).keyDown 15 = true ∧ (boot 0).keyDown 15 = false := by decide

theorem witness_LatchTakesFirstPress_taken :
    waitingOn3.wait.waiting = true ∧ waitingOn3.wait.latched = false ∧ waitingOn3.keyDown 7 = false := by decide
theorem witness_LatchTakesFirstPress_not : latched7.wait.latched = true ∧ latched7.keyDown 2 = false := by decide

theorem witness_KeyWaitEndsByPressThenStep :
    stepInstr (boot 0xF30A) = some (.ldVxK 3) ∧ (boot 0xF30A).keyDown 7 = false := by decide

theorem witness_SnapshotIsRowMajor : 2047 < 2048 := by decide

theorem witness_ReseedFixesDraws :
    (∃ t, exec (.rnd 1 0x0F) ((boot 0xC10F).reseed 5) = .next t) ∧
    ∃ t, exec (.rnd 1 0x0F) ((boot 0x6105).reseed 5) = .next t := ⟨⟨_, rfl⟩, _, rfl⟩

theorem witness_FinishedRunStaysFinished : Finished (boot 0x1200) := ⟨0x200, by decide, by decide⟩

theorem witness_RetPopsOrUnderflows_one : ({ boot 0x00EE with sp := 1 } : State).sp.val = 0 + 1 := by decide
theorem witness_RetPopsOrUnderflows_full : ({ boot 0x00EE with sp := 16 } : State).sp.val = 15 + 1 := by decide
theorem witness_RetPopsOrUnderflows_empty : (boot 0x00EE).sp.val = 0 := by decide

theorem witness_CallPushesOrOverflows_empty : (boot 0x2300).sp.val = 0 ∧ 1 < 16 ∧ 1 ≠ 0 := by decide
theorem witness_CallPushesOrOverflows_last : ({ boot 0x2300 with sp := 15 } : State).sp.val = 15 := by decide
theorem witness_CallPushesOrOverflows_full : ({ boot 0x2300 with sp := 16 } : State).sp.val = 16 := by decide

theorem witness_RetReturnsAfterCallSite_empty :
    (boot 0x2300).sp.val < 16 ∧ (∃ t, exec (.call 0x300) (boot 0x2300) = .next t) ∧ 1 < 16 ∧ 1 ≠ (boot 0x2300).sp.val :=
  ⟨by decide, ⟨_, rfl⟩, by decide, by decide⟩
theorem witness_RetReturnsAfterCallSite_last :
    ({ boot 0x2300 with sp := 15 } : State).sp.val < 16 ∧
    (∃ t, exec (.call 0x300) { boot 0x2300 with sp := 15 } = .next t) ∧
    14 < 16 ∧ 14 ≠ ({ boot 0x2300 with sp := 15 } : State).sp.val := ⟨by decide, ⟨_, rfl⟩, by decide, by decide⟩

theorem witness_SkipsOnKey_down :
    ∃ k : Nibble, k.toNat = (((bootV 0xE19E 15 0 0).press 15).getV 1).toNat ∧
      ((bootV 0xE19E 15 0 0).press 15).keyDown k = true := by decide
theorem witness_SkipsOnKey_noSuchKey :
    ¬ ∃ k : Nibble, k.toNat = (((bootV 0xE19E 16 0 0).press 0).getV 1).toNat ∧
      ((bootV 0xE19E 16 0 0).press 0).keyDown k = true := by decide

/-- For the flag-setting instructions: a destination other than `VF`, and a register that is neither. -/
theorem witness_flag_destination : (14 : Nibble) ≠ 0xF#4 ∧ (2 : Nibble) ≠ 14 ∧ (2 : Nibble) ≠ 0xF#4 ∧ 7 < 8 := by decide

theorem witness_DecimalDigitsStored :
    ∀ k < 3, ¬ SameByte 0x002 (((boot 0xF133).setI 0xFFF).operandAddr k) := by unfold SameByte; decide

theorem witness_RegisterBlockStored_registers : (15 : Nibble).toNat ≤ (15 : Nibble).toNat := by decide
theorem witness_RegisterBlockStored_memory :
    ∀ k ≤ (15 : Nibble).toNat, ¬ SameByte 0x008 (((boot 0xFF55).setI 0xFF8).operandAddr k) := by
  unfold SameByte; decide

theorem witness_DrawXorsSpriteOntoScreen_collision :
    ∃ t, exec (.drw 0 1 5) { (boot 0xD015).setI 0x050 with fb := flipPixel State.reset.fb 0 0 } = .next t ∧
      pixelAt (flipPixel State.reset.fb 0 0) 0 0 = true ∧ pixelAt t.fb 0 0 = false :=
  ⟨_, rfl, by decide +kernel, by decide +kernel⟩
theorem witness_DrawXorsSpriteOntoScreen_noCollision :
    ∃ t, exec (.drw 0 1 5) ((boot 0xD015).setI 0x050) = .next t ∧
      ¬ ∃ py < 32, ∃ px < 64, pixelAt ((boot 0xD015).setI 0x050).fb py px = true ∧ pixelAt t.fb py px = false := by
  refine ⟨_, rfl, ?_⟩
  rintro ⟨py, hy, px, hx, h, -⟩
  have h0 : pixelAt ((boot 0xD015).setI 0x050).fb py px = false := by
    show (Vector.replicate 32 (Vector.replicate 64 false))[py % 32][px % 64] = false
    simp
  rw [h0] at h
  cases h

theorem witness_DrawingTwiceRestoresScreen :
    ∃ t u w : State, exec (.drw 0 1 5) ((boot 0xD015).setI 0x050) = .next t ∧ u.fb = t.fb ∧
      u.getV 0 = ((boot 0xD015).setI 0x050).getV 0 ∧ u.getV 1 = ((boot 0xD015).setI 0x050).getV 1 ∧
      u.i = ((boot 0xD015).setI 0x050).i ∧ (∀ a, u.memRead a = ((boot 0xD015).setI 0x050).memRead a) ∧
      exec (.drw 0 1 5) u = .next w :=
  ⟨_, _, _, rfl, rfl, rfl, rfl, rfl, fun _ => rfl, rfl⟩

end Sys2Proof.Tests
end

section
/-! Memory as the machine's operations see it (spec/20_memory.md): addresses modulo 4096, reads after writes, what
a write leaves unchanged, and the big-endian fetch. -/

namespace Sys2Proof.Proofs

open Sys2Proof.Machine Sys2Proof.Safety

/-! ### Reads and writes (R60 to R62) -/

theorem memRead_memWrite_of_sameByte (s : State) {a b : Word} (w : Byte) (h : SameByte a b) :
    (s.memWrite a w).memRead b = w := by
  rw [State.memRead_memWrite, if_pos ((wrap12_eq_iff a b).mpr h)]

theorem memRead_memWrite_of_not_sameByte (s : State) {a b : Word} (w : Byte) (h : ¬ SameByte a b) :
    (s.memWrite a w).memRead b = s.memRead b := by
  rw [State.memRead_memWrite, if_neg (mt (wrap12_eq_iff a b).mp h)]

/-- The frame of a write: memory is the one piece of state it may change. -/
theorem memWrite_keepsAllBut_mem (s : State) (a : Word) (w : Byte) : KeepsAllBut [.mem] s (s.memWrite a w) := by
  intro p hp
  cases p with
  | mem => exact absurd (List.mem_singleton_self _) hp
  | v => exact s.memWrite_getV a w
  | _ => rfl

/-- Settles O6: the two cases of a read after a write, the read by number, and the frame of the write. -/
theorem memoryReadsLastWrite : Obligations.MemoryReadsLastWrite := fun s a b w =>
  ⟨memRead_memWrite_of_sameByte s w, memRead_memWrite_of_not_sameByte s w, s.memRead_eq_readByte b,
    memWrite_keepsAllBut_mem s a w⟩

/-! ### Fetch (R64, R73) -/

/-- Big-endian: the first byte of a joined pair has the weight 256. -/
theorem joinBytes_toNat (hi lo : Byte) : (joinBytes hi lo).toNat = 256 * hi.toNat + lo.toNat := by
  rw [joinBytes, BitVec.toNat_append, ← Nat.shiftLeft_add_eq_or_of_lt lo.isLt, Nat.shiftLeft_eq, Nat.mul_comm]

/-- The byte after a 16-bit address: the 16-bit sum may wrap to 0, which is the same byte modulo 4096. -/
theorem memRead_add_one (s : State) (a : Word) : s.memRead (a + 1) = s.readByte (a.toNat + 1) := by
  have h : (1 : Word).toNat = 1 := rfl
  rw [State.memRead_eq_readByte, BitVec.toNat_add, h]
  exact s.readByte_congr (by omega)

/-- Settles O7: the fetched word joins the byte at `pc` and the byte after it. -/
theorem fetchIsBigEndian : Obligations.FetchIsBigEndian := by
  intro s
  rw [State.fetchOpcode, joinBytes_toNat, State.memRead_eq_readByte, memRead_add_one]

end Sys2Proof.Proofs
end

section
/-! Decoding by format (spec/30_encoding.md R91, R94): what the decoder answers on every word of a format, and on a
byte list that begins with such a word. -/

namespace Sys2Proof.Proofs

/-- A byte list that begins with the two bytes of a decodable opcode: the later bytes are handed back (R90). -/
theorem decodeBytes_of_decode {hi lo : Byte} {op : Word} {i : Instr} (hw : joinBytes hi lo = op)
    (hd : decode op = .ok i) (rest : List Byte) : decodeBytes (hi :: lo :: rest) = .ok (i, rest) := by
  rw [decodeBytes, hw, hd, Except.map]

theorem decode_formXKK_6 (x : Nibble) (kk : Byte) : decode (formXKK 0x6 x kk) = .ok (.ldImm x kk) := by
  simp [decode]

theorem decode_formNNN_A (nnn : Addr) : decode (formNNN 0xA nnn) = .ok (.ldI nnn) := by
  simp [decode]

theorem decode_formXYN_D (x y n : Nibble) : decode (formXYN 0xD x y n) = .ok (.drw x y n) := by
  simp [decode]

/-- Settles O1: the three printed opcodes are words of the formats `6xkk`, `Annn` and `Dxyn`. -/
theorem confirmedOpcodesDecode : Obligations.ConfirmedOpcodesDecode :=
  ⟨decodeBytes_of_decode (by decide) (decode_formXKK_6 0 0x05) [],
    decodeBytes_of_decode (by decide) (decode_formNNN_A 0x200) [],
    decodeBytes_of_decode (by decide) (decode_formXYN_D 0 0 5) []⟩

end Sys2Proof.Proofs
end

section
/-! Frames as they compose: operations one after the other change no more than their lists together, and the lists
of the operations a step is made of. -/

namespace Sys2Proof.Proofs

open Sys2Proof.Machine Sys2Proof.Safety

theorem same_trans {p : Part} {s t u : State} (h : p.Same s t) (h' : p.Same t u) : p.Same s u := by
  cases p with
  | v | mem => exact fun a => (h' a).trans (h a)
  | _ => exact Eq.trans h' h

theorem keepsAllBut_append {ps qs : List Part} {s t u : State} (h : KeepsAllBut ps s t) (h' : KeepsAllBut qs t u) :
    KeepsAllBut (ps ++ qs) s u := fun p hp =>
  same_trans (h p (mt (List.mem_append_left qs) hp)) (h' p (mt (List.mem_append_right ps) hp))

theorem keepsAllBut_mono {ps qs : List Part} {s t : State} (hsub : ps ⊆ qs) (h : KeepsAllBut ps s t) :
    KeepsAllBut qs s t := fun p hp => h p (mt (@hsub p) hp)

theorem setCond_keepsAllBut (s : State) (c : Cond) : KeepsAllBut [.cond] s (s.setCond c) := by
  intro p hp
  cases p with
  | cond => simp at hp
  | v | mem => exact fun _ => rfl
  | _ => rfl

theorem timerUpdate_keepsAllBut (s : State) : KeepsAllBut [.dt, .st] s s.timerUpdate := by
  intro p hp
  cases p with
  | dt | st => simp at hp
  | v | mem => exact fun _ => rfl
  | _ => rfl

theorem executeUnknown_keepsAllBut (s : State) : KeepsAllBut [.pc, .cond] s s.executeUnknown := by
  intro p hp
  cases p with
  | pc | cond => simp at hp
  | v | mem => exact fun _ => rfl
  | _ => rfl

theorem completeWait_keepsAllBut (s : State) : KeepsAllBut [.v, .pc, .wait] s s.completeWait := by
  intro p hp
  cases p with
  | v | pc | wait => simp at hp
  | mem => exact fun _ => rfl
  | _ => rfl

/-- Completing a wait stores the key in the target register. -/
theorem getV_completeWait (s : State) (r : Nibble) :
    s.completeWait.getV r = if r = s.wait.target then s.wait.key.setWidth 8 else s.getV r :=
  s.getV_setV s.wait.target r _

end Sys2Proof.Proofs
end

section
/-! The step (spec/40_step_cycle.md R120, R122): what it answers for each kind of step, and the inversion of a step
into its four kinds, which later proofs cite in place of unfolding `step`. -/

namespace Sys2Proof.Proofs

open Sys2Proof.Machine Sys2Proof.Safety

theorem stepInstr_of_waiting {s : State} (hw : s.wait.waiting = true) : stepInstr s = none := by
  simp [stepInstr, hw]

theorem stepInstr_eq_some_iff {s : State} {i : Instr} :
    stepInstr s = some i ↔ s.wait.waiting = false ∧ decode s.fetchOpcode = .ok i := by
  cases hw : s.wait.waiting <;> cases hd : decode s.fetchOpcode <;> simp [stepInstr, hw, hd]

/-! ### What each kind of step answers -/

/-- Clearing `COND` first does not change what is fetched. -/
@[simp] theorem setCond_fetchOpcode (s : State) (c : Cond) : (s.setCond c).fetchOpcode = s.fetchOpcode := rfl

theorem finishStep_eq_next_iff {a : Answer} {t : State} :
    finishStep a = .next t ↔ ∃ u, a = .next u ∧ t = u.timerUpdate := by
  cases a <;> simp [finishStep, eq_comm]

theorem step_of_stepInstr {s : State} {i : Instr} (hi : stepInstr s = some i) :
    step s = finishStep (exec i (s.setCond .none)) := by
  obtain ⟨hw, hd⟩ := stepInstr_eq_some_iff.mp hi
  simp [step, stepWith, executeOpcode, hw, hd]

theorem step_of_unknown {s : State} (hw : s.wait.waiting = false) (hi : stepInstr s = none) :
    step s = .next s.executeUnknown.timerUpdate := by
  cases hd : decode s.fetchOpcode with
  | ok i => simp [stepInstr_eq_some_iff.mpr ⟨hw, hd⟩] at hi
  | error r =>
    simp only [step, stepWith, executeOpcode, State.setCond_wait, setCond_fetchOpcode, hw, hd]
    rfl

theorem step_of_not_latched {s : State} (hw : s.wait.waiting = true) (hl : s.wait.latched = false) :
    step s = .next (s.setCond .none).timerUpdate := by
  simp [step, stepWith, State.waitStep, hw, hl, finishStep]

theorem step_of_latched {s : State} (hw : s.wait.waiting = true) (hl : s.wait.latched = true) :
    step s = .next (s.completeWait.setCond .none).timerUpdate := by
  simp only [step, stepWith, State.waitStep, State.setCond_wait, hw, hl]
  rfl

/-! ### The four kinds of step -/

/-- The kinds of step, each with the state it leaves. -/
inductive StepKind (s : State) : State → Prop
  | runs {i : Instr} {u : State} (hi : stepInstr s = some i) (hu : exec i (s.setCond .none) = .next u) :
      StepKind s u.timerUpdate
  | unknown (hw : s.wait.waiting = false) (hi : stepInstr s = none) : StepKind s s.executeUnknown.timerUpdate
  | waits (hw : s.wait.waiting = true) (hl : s.wait.latched = false) : StepKind s (s.setCond .none).timerUpdate
  | completes (hw : s.wait.waiting = true) (hl : s.wait.latched = true) :
      StepKind s (s.completeWait.setCond .none).timerUpdate

/-- Everything a step can do. -/
theorem stepKind_of_step {s t : State} (h : step s = .next t) : StepKind s t := by
  cases hi : stepInstr s with
  | some i =>
    rw [step_of_stepInstr hi] at h
    obtain ⟨u, hu, rfl⟩ := finishStep_eq_next_iff.mp h
    exact .runs hi hu
  | none =>
    cases hw : s.wait.waiting with
    | false =>
      cases (step_of_unknown hw hi).symm.trans h
      exact .unknown hw hi
    | true =>
      cases hl : s.wait.latched with
      | false =>
        cases (step_of_not_latched hw hl).symm.trans h
        exact .waits hw hl
      | true =>
        cases (step_of_latched hw hl).symm.trans h
        exact .completes hw hl

/-- Settles O9: an opcode that decodes is the step's instruction, and the end of the step is `finishStep`. -/
theorem stepRunsDecodedInstruction : Obligations.StepRunsDecodedInstruction := by
  intro s i hw hd
  rw [step_of_stepInstr (stepInstr_eq_some_iff.mpr ⟨hw, hd⟩)]
  cases exec i (s.setCond .none) <;> rfl

end Sys2Proof.Proofs
end

section
/-! What each kind of step may change (spec/40_step_cycle.md R125). -/

namespace Sys2Proof.Proofs

open Sys2Proof.Machine Sys2Proof.Safety

section

variable {s t : State}

theorem running_step_keepsAllBut (h : step s = .next t) {i : Instr} {u : State} (hi : stepInstr s = some i)
    (hu : exec i (s.setCond .none) = .next u) : KeepsAllBut [.pc, .cond, .dt, .st] u t := by
  have ht : step s = .next u.timerUpdate := by rw [step_of_stepInstr hi, hu, finishStep]
  cases ht.symm.trans h
  exact keepsAllBut_mono (by simp) (timerUpdate_keepsAllBut u)

theorem unknown_step_keepsAllBut (h : step s = .next t) (hw : s.wait.waiting = false) (hi : stepInstr s = none) :
    KeepsAllBut [.pc, .cond, .dt, .st] s t := by
  cases (step_of_unknown hw hi).symm.trans h
  exact keepsAllBut_append (executeUnknown_keepsAllBut s) (timerUpdate_keepsAllBut _)

theorem waiting_step_keepsAllBut (h : step s = .next t) (hw : s.wait.waiting = true) (hl : s.wait.latched = false) :
    t.cond = .none ∧ KeepsAllBut [.cond, .dt, .st] s t := by
  cases (step_of_not_latched hw hl).symm.trans h
  exact ⟨rfl, keepsAllBut_append (setCond_keepsAllBut s .none) (timerUpdate_keepsAllBut _)⟩

theorem completing_step_keepsAllBut (h : step s = .next t) (hw : s.wait.waiting = true) (hl : s.wait.latched = true) :
    (∀ r, r ≠ s.wait.target → t.getV r = s.getV r) ∧ KeepsAllBut [.v, .pc, .wait, .cond, .dt, .st] s t := by
  cases (step_of_latched hw hl).symm.trans h
  refine ⟨fun r hr => ?_, ?_⟩
  · rw [State.timerUpdate_getV, State.setCond_getV, getV_completeWait, if_neg hr]
  · exact keepsAllBut_append (completeWait_keepsAllBut s)
      (keepsAllBut_append (setCond_keepsAllBut _ .none) (timerUpdate_keepsAllBut _))

/-- No step changes the key states (R125). -/
theorem step_keys (h : step s = .next t) : t.keys = s.keys := by
  cases stepKind_of_step h with
  | runs hi hu => exact (ExecFrame.of_exec _ _ _ hu).keys
  | unknown | waits | completes => rfl

/-- A step that runs `RND` moves the generator to the state its free function gives (R181). -/
theorem step_rng_of_rnd (h : step s = .next t) {x : Nibble} {kk : Byte} (hi : stepInstr s = some (.rnd x kk)) :
    t.rng = Config.rngNext s.rng := by
  rw [step_of_stepInstr hi] at h
  obtain ⟨u, hu, rfl⟩ := finishStep_eq_next_iff.mp h
  exact (ExecFrame.of_exec _ _ _ hu).rng

/-- Every other step leaves the generator. -/
theorem step_rng_of_not_rnd (h : step s = .next t) (hne : ∀ x kk, stepInstr s ≠ some (.rnd x kk)) :
    t.rng = s.rng := by
  cases stepKind_of_step h with
  | runs hi hu =>
    have hrng := (ExecFrame.of_exec _ _ _ hu).rng
    split at hrng
    · exact absurd hi (hne _ _)
    · exact hrng
  | unknown | waits | completes => rfl

end

/-- Settles O15: a clause for each kind of step, the key states, and the generator by whether `RND` runs. -/
theorem stepChangesInTotal : Obligations.StepChangesInTotal := by
  intro s t h
  refine ⟨fun _ _ => running_step_keepsAllBut h, unknown_step_keepsAllBut h, waiting_step_keepsAllBut h,
    completing_step_keepsAllBut h, step_keys h, ?_⟩
  split
  · next hi => exact step_rng_of_rnd h hi
  · next hne => exact step_rng_of_not_rnd h hne

end Sys2Proof.Proofs
end

section
/-! Control flow (spec/41_control_flow.md): what a write of `pc` and a dropped instruction leave, the two answers of
`RET` and of `CALL`, and the jumps. -/

namespace Sys2Proof.Proofs

open Sys2Proof.Machine Sys2Proof.Safety

/-! ### Writing `pc`, and recording a condition (R22, R227) -/

theorem setPc_keepsAllBut (s : State) (a : Word) : KeepsAllBut [.pc] s (s.setPc a) := by
  intro p hp
  cases p with
  | pc => simp at hp
  | v | mem => exact fun _ => rfl
  | _ => rfl

/-- An operation that ends in a write of `pc` changes no more than `pc` and what it changed before. -/
theorem keepsAllBut_setPc {ps : List Part} {s t : State} (h : KeepsAllBut ps s t) (a : Word) :
    KeepsAllBut (.pc :: ps) s (t.setPc a) :=
  keepsAllBut_mono (by simp) (keepsAllBut_append h (setPc_keepsAllBut t a))

theorem setPc_goesTo (s : State) (a : Word) : GoesTo (s.setPc a) a.toNat := wrap12_toNat a

/-- The whole effect of a condition: it is recorded, `pc` advances, and the instruction is dropped (R227). -/
theorem raise_effect (s : State) (c : Cond) :
    (s.raise c).cond = c ∧ GoesTo (s.raise c) (s.pc.toNat + 2) ∧ KeepsAllBut [.pc, .cond] s (s.raise c) :=
  ⟨s.raise_cond c, s.npc_toNat, keepsAllBut_setPc (setCond_keepsAllBut s c) _⟩

/-! ### `JP` (R132) and `JP V0` (R134) -/

theorem exec_jp (nnn : Addr) (s : State) : exec (.jp nnn) s = .next (s.setPc (addrWord nnn)) := rfl

theorem exec_jpV0 (nnn : Addr) (s : State) : exec (.jpV0 nnn) s = .next (s.setPc (s.offsetTarget nnn)) := rfl

/-- The sum of an address and a byte fits in 16 bits: only the write of `pc` takes it modulo 4096. -/
theorem offsetTarget_toNat (s : State) (nnn : Addr) :
    (s.offsetTarget nnn).toNat = nnn.toNat + (s.getV 0x0#4).toNat := by
  rw [State.offsetTarget, BitVec.toNat_add, addrWord_toNat, byteWord_toNat]
  omega

/-- Settles O37: both jumps are one write of `pc`, to the address of their target. -/
theorem jumpsGoToTarget : Obligations.JumpsGoToTarget := by
  refine fun s nnn => ⟨⟨_, exec_jp nnn s, ?_, setPc_keepsAllBut s _⟩, _, exec_jpV0 nnn s, ?_, setPc_keepsAllBut s _⟩
  · exact addrWord_toNat nnn ▸ setPc_goesTo s (addrWord nnn)
  · exact offsetTarget_toNat s nnn ▸ setPc_goesTo s (s.offsetTarget nnn)

/-! ### `RET` (R131) -/

theorem setSp_keepsAllBut (s : State) (n : Fin 17) : KeepsAllBut [.sp] s { s with sp := n } := by
  intro p hp
  cases p with
  | sp => simp at hp
  | v | mem => exact fun _ => rfl
  | _ => rfl

theorem exec_ret_of_entry {s : State} {k : Nat} (hk : k < 16) (h : s.sp.val = k + 1) :
    exec .ret s = .next (State.setPc { s with sp := ⟨k, by omega⟩ } s.stack[k]) := by
  rcases s.pop_spec with ⟨h0, -⟩ | ⟨j, hj, hs, hp⟩
  · omega
  · obtain rfl : j = k := by omega
    simp only [exec, execRet, hp]

theorem exec_ret_of_empty {s : State} (h : s.sp.val = 0) : exec .ret s = .next (s.raise .stackUnderflow) := by
  rcases s.pop_spec with ⟨-, hp⟩ | ⟨j, hj, hs, -⟩
  · simp only [exec, execRet, hp]
  · omega

/-- Settles O36: an entry is popped into `pc`; on an empty stack the condition is the whole effect. -/
theorem retPopsOrUnderflows : Obligations.RetPopsOrUnderflows := fun s =>
  ⟨fun _ hk h => ⟨_, exec_ret_of_entry hk h, setPc_goesTo _ _, rfl, keepsAllBut_setPc (setSp_keepsAllBut s _) _⟩,
    fun h => ⟨_, exec_ret_of_empty h, raise_effect s .stackUnderflow⟩⟩

/-! ### `CALL` (R133) -/

theorem setStackSp_keepsAllBut (s : State) (st : Vector Word 16) (n : Fin 17) :
    KeepsAllBut [.sp, .stack] s { s with stack := st, sp := n } := by
  intro p hp
  cases p with
  | sp | stack => simp at hp
  | v | mem => exact fun _ => rfl
  | _ => rfl

theorem exec_call_of_room {s : State} (nnn : Addr) {k : Nat} (hk : k < 16) (h : s.sp.val = k) :
    exec (.call nnn) s = .next (State.setPc
      { s with stack := s.stack.set k (wrap12 s.npc) hk, sp := ⟨k + 1, by omega⟩ } (addrWord nnn)) := by
  subst h
  rcases s.push_spec s.npc with ⟨h16, -⟩ | ⟨_, hp⟩
  · omega
  · simp only [exec, execCall, hp]

theorem exec_call_of_full {s : State} (nnn : Addr) (h : s.sp.val = 16) :
    exec (.call nnn) s = .next (s.raise .stackOverflow) := by
  rcases s.push_spec s.npc with ⟨-, hp⟩ | ⟨hlt, -⟩
  · simp only [exec, execCall, hp]
  · omega

/-- Settles O38: with room the address after the call is pushed and `pc` set; on a full stack the condition is the
whole effect. -/
theorem callPushesOrOverflows : Obligations.CallPushesOrOverflows := by
  refine fun s nnn => ⟨fun k hk h => ⟨_, exec_call_of_room nnn hk h, ?target, ?pushed, ?others, rfl, ?frame⟩,
    fun h => ⟨_, exec_call_of_full nnn h, raise_effect s .stackOverflow⟩⟩
  case target => exact addrWord_toNat nnn ▸ setPc_goesTo _ (addrWord nnn)
  case pushed => rw [State.setPc_stack, Vector.getElem_set_self, wrap12_toNat, State.npc_toNat, Nat.mod_mod]
  case others =>
    intro j hj hne
    rw [State.setPc_stack, Vector.getElem_set_ne _ _ (Ne.symm hne)]
  case frame => exact keepsAllBut_setPc (setStackSp_keepsAllBut s _ _) _

end Sys2Proof.Proofs
end

section
/-! Conditional skips (spec/42_skips.md): what a skip leaves by its condition, and the four comparisons that decide one. -/

namespace Sys2Proof.Proofs

open Sys2Proof.Machine Sys2Proof.Safety

/-! ### The two ends of a skip (R144) -/

/-- The whole effect of a skip, by its condition. -/
theorem skipIf_effect (s : State) (b : Bool) :
    KeepsAllBut [.pc] s (s.skipIf b) ∧ GoesTo (s.skipIf b) (s.pc.toNat + if b then 4 else 2) := by
  obtain ⟨a, ha, hpc⟩ := s.skipIf_spec b
  rw [ha]
  exact ⟨setPc_keepsAllBut s a, hpc⟩

/-- A skip on equal bytes, as `SE` takes it. -/
theorem skipIf_beq_effect (s : State) (a b : Byte) :
    KeepsAllBut [.pc] s (s.skipIf (a == b)) ∧
      GoesTo (s.skipIf (a == b)) (s.pc.toNat + if a.toNat = b.toNat then 4 else 2) := by
  simpa only [beq_iff_eq, BitVec.toNat_inj] using skipIf_effect s (a == b)

/-- A skip on different bytes, as `SNE` takes it. -/
theorem skipIf_bne_effect (s : State) (a b : Byte) :
    KeepsAllBut [.pc] s (s.skipIf (a != b)) ∧
      GoesTo (s.skipIf (a != b)) (s.pc.toNat + if a.toNat = b.toNat then 2 else 4) := by
  simpa only [bne_iff_ne, ne_eq, ite_not, BitVec.toNat_inj] using skipIf_effect s (a != b)

/-! ### `SE` and `SNE` with a byte (R140, R141) -/

theorem exec_seImm (x : Nibble) (kk : Byte) (s : State) :
    exec (.seImm x kk) s = .next (s.skipIf (s.getV x == kk)) := rfl

theorem exec_sneImm (x : Nibble) (kk : Byte) (s : State) :
    exec (.sneImm x kk) s = .next (s.skipIf (s.getV x != kk)) := rfl

/-- Settles O40: the register is compared with the byte, for equality by `SE` and for difference by `SNE`. -/
theorem skipsOnByte : Obligations.SkipsOnByte := fun s x kk =>
  ⟨⟨_, exec_seImm x kk s, skipIf_beq_effect s (s.getV x) kk⟩,
    _, exec_sneImm x kk s, skipIf_bne_effect s (s.getV x) kk⟩

/-! ### `SE` and `SNE` with a register (R142, R143) -/

theorem exec_seReg (x y : Nibble) (s : State) :
    exec (.seReg x y) s = .next (s.skipIf (s.getV x == s.getV y)) := rfl

theorem exec_sneReg (x y : Nibble) (s : State) :
    exec (.sneReg x y) s = .next (s.skipIf (s.getV x != s.getV y)) := rfl

/-- Settles O41: the two registers are compared, for equality by `SE` and for difference by `SNE`. -/
theorem skipsOnRegister : Obligations.SkipsOnRegister := fun s x y =>
  ⟨⟨_, exec_seReg x y s, skipIf_beq_effect s (s.getV x) (s.getV y)⟩,
    _, exec_sneReg x y s, skipIf_bne_effect s (s.getV x) (s.getV y)⟩

end Sys2Proof.Proofs
end

section
/-! Register loads (spec/43_alu.md R150, R152): the opcode `6xkk` as a number, and what an instruction leaves that
writes one register and advances. -/

namespace Sys2Proof.Proofs

open Sys2Proof.Machine Sys2Proof.Safety

/-! ### The number of a word of format `XKK` (R91) -/

theorem toNat_append_eq_add {m n : Nat} (a : BitVec m) (b : BitVec n) :
    (a ++ b).toNat = a.toNat * 2 ^ n + b.toNat := by
  rw [BitVec.toNat_append, ← Nat.shiftLeft_add_eq_or_of_lt b.isLt, Nat.shiftLeft_eq]

theorem formXKK_toNat (l x : Nibble) (kk : Byte) :
    (formXKK l x kk).toNat = 4096 * l.toNat + 256 * x.toNat + kk.toNat := by
  rw [formXKK, toNat_append_eq_add, toNat_append_eq_add]
  omega

theorem ofNat_eq_formXKK (l x : Nibble) (kk : Byte) :
    BitVec.ofNat 16 (4096 * l.toNat + 256 * x.toNat + kk.toNat) = formXKK l x kk := by
  rw [← formXKK_toNat, BitVec.ofNat_toNat, BitVec.setWidth_eq]

/-! ### One register written, then `pc <- npc` (R123) -/

theorem setV_keepsAllBut (s : State) (x : Nibble) (b : Byte) : KeepsAllBut [.v] s (s.setV x b) := by
  intro p hp
  cases p with
  | v => simp at hp
  | mem => exact fun _ => rfl
  | _ => rfl

theorem advance_goesTo (s : State) : GoesTo s.advance (s.pc.toNat + 2) := s.advance_pc_toNat

/-- The whole effect of a register write that advances; `VF` is a register like the others. -/
theorem setV_advance_effect (s : State) (x : Nibble) (b : Byte) :
    (∀ r, (s.setV x b).advance.getV r = if r = x then b else s.getV r) ∧
      GoesTo (s.setV x b).advance (s.pc.toNat + 2) ∧ KeepsAllBut [.v, .pc] s (s.setV x b).advance :=
  ⟨fun r => s.getV_setV x r b, advance_goesTo (s.setV x b),
    keepsAllBut_append (setV_keepsAllBut s x b) (setPc_keepsAllBut _ _)⟩

/-! ### `LD Vx, byte` (R150) and `LD Vx, Vy` (R152) -/

theorem exec_ldImm (x : Nibble) (kk : Byte) (s : State) : exec (.ldImm x kk) s = .next (s.setV x kk).advance := rfl

theorem exec_ldReg (x y : Nibble) (s : State) : exec (.ldReg x y) s = .next (s.setV x (s.getV y)).advance := rfl

/-- Settles O43: the number is the word `6xkk`, and the instruction writes `kk` to its register. -/
theorem loadByteIntoRegister : Obligations.LoadByteIntoRegister := by
  refine fun s x kk => ⟨?_, _, exec_ldImm x kk s, setV_advance_effect s x kk⟩
  have hword : BitVec.ofNat 16 (0x6000 + 256 * x.toNat + kk.toNat) = formXKK 0x6 x kk := ofNat_eq_formXKK 0x6 x kk
  rw [hword, decode_formXKK_6]

/-- Settles O45: the instruction writes the old value of the second register to the first. -/
theorem copyRegister : Obligations.CopyRegister := fun s x y =>
  ⟨_, exec_ldReg x y s, setV_advance_effect s x (s.getV y)⟩

end Sys2Proof.Proofs
end

section
/-! `LD I` (spec/44_index_memory.md R170): the opcode `Annn` as a number, and what an instruction leaves that writes
`I` and advances. -/

namespace Sys2Proof.Proofs

open Sys2Proof.Machine Sys2Proof.Safety

/-! ### The number of a word of format `NNN` (R91) -/

theorem formNNN_toNat (l : Nibble) (nnn : Addr) : (formNNN l nnn).toNat = 4096 * l.toNat + nnn.toNat := by
  rw [formNNN, toNat_append_eq_add]
  omega

theorem ofNat_eq_formNNN (l : Nibble) (nnn : Addr) :
    BitVec.ofNat 16 (4096 * l.toNat + nnn.toNat) = formNNN l nnn := by
  rw [← formNNN_toNat, BitVec.ofNat_toNat, BitVec.setWidth_eq]

/-! ### `I` written, then `pc <- npc` (R24, R123) -/

theorem setI_keepsAllBut (s : State) (a : Word) : KeepsAllBut [.i] s (s.setI a) := by
  intro p hp
  cases p with
  | i => simp at hp
  | v | mem => exact fun _ => rfl
  | _ => rfl

/-- The whole effect of a write of `I` that advances; `I` takes the address modulo 4096. -/
theorem setI_advance_effect (s : State) (a : Word) :
    (s.setI a).advance.i.toNat = a.toNat % 4096 ∧
      GoesTo (s.setI a).advance (s.pc.toNat + 2) ∧ KeepsAllBut [.i, .pc] s (s.setI a).advance :=
  ⟨wrap12_toNat a, advance_goesTo (s.setI a), keepsAllBut_append (setI_keepsAllBut s a) (setPc_keepsAllBut _ _)⟩

/-! ### `LD I, addr` (R170) -/

theorem exec_ldI (nnn : Addr) (s : State) : exec (.ldI nnn) s = .next (s.setI (addrWord nnn)).advance := rfl

/-- Settles O50: the number is the word `Annn`, and a 12-bit address is written to `I` unwrapped. -/
theorem loadIndex : Obligations.LoadIndex := by
  intro s nnn
  obtain ⟨hi, hpc, hkeep⟩ := setI_advance_effect s (addrWord nnn)
  refine ⟨?_, _, exec_ldI nnn s, ?_, hpc, hkeep⟩
  · have hword : BitVec.ofNat 16 (0xA000 + nnn.toNat) = formNNN 0xA nnn := ofNat_eq_formNNN 0xA nnn
    rw [hword, decode_formNNN_A]
  · rw [hi, addrWord_toNat, Nat.mod_eq_of_lt nnn.isLt]

end Sys2Proof.Proofs
end

section
/-! `RND` (spec/45_random.md R180, R181): what a draw leaves, and the drawn byte masked into a register. -/

namespace Sys2Proof.Proofs

open Sys2Proof.Machine Sys2Proof.Safety

/-- The frame of a draw: the generator is the one piece of state it may change. -/
theorem rand_keepsAllBut (s : State) : KeepsAllBut [.rng] s s.rand.2 := by
  intro p hp
  cases p with
  | rng => simp at hp
  | v | mem => exact fun _ => rfl
  | _ => rfl

theorem exec_rnd (x : Nibble) (kk : Byte) (s : State) :
    exec (.rnd x kk) s = .next (s.rand.2.setV x (Config.rngDraw s.rng &&& kk)).advance := rfl

/-- Settles O55: a draw, then a register write that advances; the byte written is the draw masked by `kk`. -/
theorem randomByteIsMaskedDraw : Obligations.RandomByteIsMaskedDraw := by
  intro s x kk
  obtain ⟨hv, hpc, hkeep⟩ := setV_advance_effect s.rand.2 x (Config.rngDraw s.rng &&& kk)
  refine ⟨_, exec_rnd x kk s, ?masked, ?others, rfl, hpc, ?frame⟩
  case masked =>
    intro j _
    rw [hv, if_pos rfl, BitVec.getLsbD_and]
  case others =>
    intro r hr
    rw [hv, if_neg hr]
    exact rand_keepsAllBut s .v (by simp) r
  case frame => exact keepsAllBut_mono (by simp) (keepsAllBut_append (rand_keepsAllBut s) hkeep)

end Sys2Proof.Proofs
end

section
/-! The display between draws (spec/46_display.md R185, R186, R189, R190): which steps leave it, the clear, the host's
flag query, and the snapshot. -/

namespace Sys2Proof.Proofs

open Sys2Proof.Machine Sys2Proof.Safety

/-! ### The display over all steps (R185) -/

section

variable {s t : State}

theorem step_keeps_redraw_set (h : step s = .next t) (hr : s.redraw = true) : t.redraw = true := by
  cases stepKind_of_step h with
  | runs hi hu => exact (ExecFrame.of_exec _ _ _ hu).redraw hr
  | unknown | waits | completes => exact hr

theorem step_keeps_display (h : step s = .next t) (hcls : stepInstr s ≠ some .cls)
    (hdrw : ∀ x y n, stepInstr s ≠ some (.drw x y n)) : t.fb = s.fb ∧ t.redraw = s.redraw := by
  cases stepKind_of_step h with
  | runs hi hu =>
    rw [hi] at hcls hdrw
    exact (ExecFrame.of_exec _ _ _ hu).fb (ne_of_apply_ne some hcls) fun x y n => ne_of_apply_ne some (hdrw x y n)
  | unknown | waits | completes => exact ⟨rfl, rfl⟩

end

/-- Settles O19: the four kinds of step, of which only a running one can touch the display. -/
theorem displayChangedOnlyByClsAndDrw : Obligations.DisplayChangedOnlyByClsAndDrw := fun _ _ h =>
  ⟨step_keeps_redraw_set h, step_keeps_display h⟩

/-! ### `ConsumeRedraw` (R189) and `CLS` (R186) -/

theorem consumeRedraw_keepsAllBut (s : State) : KeepsAllBut [.redraw] s s.consumeRedraw := by
  intro p hp
  cases p with
  | redraw => simp at hp
  | v | mem => exact fun _ => rfl
  | _ => rfl

/-- Settles O31: the flag, and the frame of clearing it. -/
theorem consumeRedrawClearsFlagOnly : Obligations.ConsumeRedrawClearsFlagOnly := fun s =>
  ⟨s.consumeRedraw_redraw, consumeRedraw_keepsAllBut s⟩

theorem clearScreen_keepsAllBut (s : State) : KeepsAllBut [.fb, .redraw] s s.clearScreen := by
  intro p hp
  cases p with
  | fb | redraw => simp at hp
  | v | mem => exact fun _ => rfl
  | _ => rfl

theorem pixelAt_clearScreen (s : State) (y x : Nat) : pixelAt s.clearScreen.fb y x = false := by
  simp only [State.clearScreen_fb, pixelAt, Vector.getElem_replicate]

theorem exec_cls (s : State) : exec .cls s = .next s.clearScreen.advance := rfl

/-- Settles O56: the screen is cleared whatever it showed, then `pc` advances. -/
theorem clearScreenMarksRedraw : Obligations.ClearScreenMarksRedraw := fun s =>
  ⟨_, exec_cls s, pixelAt_clearScreen s, s.clearScreen_redraw, advance_goesTo s.clearScreen,
    keepsAllBut_setPc (clearScreen_keepsAllBut s) _⟩

/-! ### `PixelSnapshot` (R190) -/

/-- The rows one after the other are the library's flattening of the framebuffer. -/
theorem pixelSnapshot_eq_flatten (s : State) : s.pixelSnapshot = s.fb.flatten.toList := by
  simp [State.pixelSnapshot, Vector.flatten, List.flatMap_def, Vector.toList, Function.comp_def]

/-- Settles O32: element `k` of the flattened rows is in row `k / 64`, at column `k % 64`. -/
theorem snapshotIsRowMajor : Obligations.SnapshotIsRowMajor := by
  intro s
  rw [pixelSnapshot_eq_flatten]
  refine ⟨s.fb.flatten.length_toList, fun k hk => ?_⟩
  have hrow : k / 64 % 32 = k / 64 := Nat.mod_eq_of_lt (by omega)
  rw [Vector.getElem?_toList, Vector.getElem?_flatten, dif_pos hk]
  simp only [pixelAt, hrow, Nat.mod_mod]

end Sys2Proof.Proofs
end

section
/-! `DRW` as an exclusive-or of the whole sprite (spec/46_display.md R187): what a draw leaves of each pixel and of
`VF`, in terms of the pixels of the screen. -/

namespace Sys2Proof.Proofs

open Sys2Proof.Machine Sys2Proof.Safety

/-! ### The sprite over a pixel -/

/-- The bit that `DRW` exclusive-ors onto pixel `(py, px)`: `State.spriteOver` at the coordinates the registers hold. -/
def drwBit (s : State) (x y n : Nibble) (py px : Nat) : Bool :=
  s.spriteOver (s.getV x).toNat (s.getV y).toNat n.toNat py px

/-- A pixel is under a set bit of the sprite exactly where some row and column of the sprite wrap onto it. -/
theorem spriteOver_eq_true_iff {s : State} {x y n py px : Nat} (hn : n ≤ 15) :
    s.spriteOver x y n py px = true ↔ ∃ row < n, ∃ col < 8, spriteBit (s.operandByte row) col = true ∧
      (y + row) % 32 = py % 32 ∧ (x + col) % 64 = px % 64 := by
  simp only [State.spriteOver, Bool.and_eq_true, decide_eq_true_eq]
  constructor
  · rintro ⟨⟨hrow, hcol⟩, hbit⟩
    exact ⟨_, hrow, _, hcol, hbit, (rowOffset_eq_iff (by omega)).mp rfl, (colOffset_eq_iff (by omega)).mp rfl⟩
  · rintro ⟨row, hrow, col, hcol, hbit, hy, hx⟩
    rw [(rowOffset_eq_iff (by omega)).mpr hy, (colOffset_eq_iff (by omega)).mpr hx]
    exact ⟨⟨hrow, hcol⟩, hbit⟩

/-- The sprite depends on its coordinates, `I` and memory only. -/
theorem drwBit_congr {s u : State} {x y : Nibble} (n : Nibble) (hx : u.getV x = s.getV x) (hy : u.getV y = s.getV y)
    (hi : u.i = s.i) (hmem : ∀ a, u.memRead a = s.memRead a) : drwBit u x y n = drwBit s x y n := by
  funext py px
  simp only [drwBit, State.spriteOver, State.operandByte, State.operandAddr, hx, hy, hi, hmem]

/-! ### What a draw leaves -/

theorem exec_drw (x y n : Nibble) (s : State) : exec (.drw x y n) s =
    .next ((s.showCanvas (s.plotSprite (s.getV x).toNat (s.getV y).toNat n.toNat)).setVF
      (s.plotSprite (s.getV x).toNat (s.getV y).toNat n.toNat).collision).advance := rfl

/-- The value `VF` takes from a flag is 1 exactly when the flag is set (R23). -/
theorem flagByte_eq_one_iff (f : Bool) : (if f then (1 : Byte) else 0) = 1 ↔ f = true := by
  cases f <;> decide

/-- The loop collides exactly where a set bit of the sprite falls on a pixel that is on. -/
theorem plotSprite_collision_iff {s : State} {x y n : Nat} (hn : n ≤ 15) :
    (s.plotSprite x y n).collision = true ↔
      ∃ py < 32, ∃ px < 64, pixelAt s.fb py px = true ∧ s.spriteOver x y n py px = true := by
  obtain ⟨-, hcollision, -⟩ := s.plotSprite_spec x y n hn
  rw [hcollision]
  constructor
  · rintro ⟨row, hrow, col, hcol, hbit, hon⟩
    refine ⟨(y + row) % 32, Nat.mod_lt _ (by omega), (x + col) % 64, Nat.mod_lt _ (by omega), ?_, ?_⟩
    · rwa [pixelAt_mod s.fb _ _ (y + row) (x + col) (Nat.mod_mod _ _) (Nat.mod_mod _ _)]
    · exact (spriteOver_eq_true_iff hn).mpr
        ⟨row, hrow, col, hcol, hbit, (Nat.mod_mod _ _).symm, (Nat.mod_mod _ _).symm⟩
  · rintro ⟨py, -, px, -, hon, hover⟩
    obtain ⟨row, hrow, col, hcol, hbit, hy, hx⟩ := (spriteOver_eq_true_iff hn).mp hover
    exact ⟨row, hrow, col, hcol, hbit, pixelAt_mod s.fb _ _ py px hy hx ▸ hon⟩

section

variable {s t : State} {x y n : Nibble}

theorem pixelAt_of_exec_drw (h : exec (.drw x y n) s = .next t) (py px : Nat) :
    pixelAt t.fb py px = xor (pixelAt s.fb py px) (drwBit s x y n py px) := by
  cases (exec_drw x y n s).symm.trans h
  obtain ⟨hpixel, -, -⟩ := s.plotSprite_spec (s.getV x).toNat (s.getV y).toNat n.toNat (by omega)
  exact hpixel py px

/-- A pixel is on under a set bit of the sprite exactly when the draw has turned it on. -/
theorem on_under_sprite_iff_turned_on (h : exec (.drw x y n) s = .next t) (py px : Nat) :
    (pixelAt t.fb py px = true ∧ drwBit s x y n py px = true) ↔
      (pixelAt s.fb py px = false ∧ pixelAt t.fb py px = true) := by
  rw [pixelAt_of_exec_drw h]
  cases pixelAt s.fb py px <;> simp

/-- `VF` after a draw is 1 exactly when a set bit of the sprite fell on a pixel that was on. -/
theorem getV_vf_of_exec_drw (h : exec (.drw x y n) s = .next t) :
    t.getV 0xF#4 = 1 ↔ ∃ py < 32, ∃ px < 64, pixelAt s.fb py px = true ∧ drwBit s x y n py px = true := by
  cases (exec_drw x y n s).symm.trans h
  rw [State.advance_getV, State.getV_setVF, if_pos rfl, flagByte_eq_one_iff]
  exact plotSprite_collision_iff (by omega)

end

/-! ### The XOR involution (R188) -/

/-- Settles O58: both draws exclusive-or the same sprite, so the second undoes the first, and it collides where the
first turned a pixel on. -/
theorem drawingTwiceRestoresScreen : Obligations.DrawingTwiceRestoresScreen := by
  intro s t u w x y n ht hfb hx hy hi hmem hw
  have hsecond := pixelAt_of_exec_drw hw
  have hvf := getV_vf_of_exec_drw hw
  rw [hfb, drwBit_congr n hx hy hi hmem] at hsecond hvf
  constructor
  · refine framebuffer_ext fun py _ px _ => ?_
    rw [hsecond, pixelAt_of_exec_drw ht, Bool.xor_assoc, Bool.xor_self, Bool.xor_false]
  · simp only [hvf, on_under_sprite_iff_turned_on ht]

end Sys2Proof.Proofs
end

section
/-! The timers (spec/47_timers.md): the three timer instructions, the update that ends every step, and the host
operations. -/

namespace Sys2Proof.Proofs

open Sys2Proof.Machine Sys2Proof.Safety

/-! ### The timer instructions (R195 to R197) -/

theorem setDt_keepsAllBut (s : State) (b : Byte) : KeepsAllBut [.dt] s (s.setDt b) := by
  intro p hp
  cases p with
  | dt => simp at hp
  | v | mem => exact fun _ => rfl
  | _ => rfl

theorem setSt_keepsAllBut (s : State) (b : Byte) : KeepsAllBut [.st] s (s.setSt b) := by
  intro p hp
  cases p with
  | st => simp at hp
  | v | mem => exact fun _ => rfl
  | _ => rfl

theorem exec_ldVxDt (x : Nibble) (s : State) : exec (.ldVxDt x) s = .next (s.setV x s.dt).advance := rfl

theorem exec_ldDtVx (x : Nibble) (s : State) : exec (.ldDtVx x) s = .next (s.setDt (s.getV x)).advance := rfl

theorem exec_ldStVx (x : Nibble) (s : State) : exec (.ldStVx x) s = .next (s.setSt (s.getV x)).advance := rfl

/-- Settles O59: each instruction is one write, of a register or of a timer, and then `pc` advances. -/
theorem timerMoves : Obligations.TimerMoves := fun s x =>
  ⟨⟨_, exec_ldVxDt x s, setV_advance_effect s x s.dt⟩,
    ⟨_, exec_ldDtVx x s, rfl, advance_goesTo (s.setDt (s.getV x)),
      keepsAllBut_append (setDt_keepsAllBut s _) (setPc_keepsAllBut _ _)⟩,
    ⟨_, exec_ldStVx x s, rfl, advance_goesTo (s.setSt (s.getV x)),
      keepsAllBut_append (setSt_keepsAllBut s _) (setPc_keepsAllBut _ _)⟩⟩

/-! ### The timers over all steps (R198) -/

section

variable {s t : State}

/-- A step that runs an instruction is the instruction's effect, then the timer update. -/
theorem execFrame_of_running_step (h : step s = .next t) {i : Instr} (hi : stepInstr s = some i) :
    ∃ u, ExecFrame i (s.setCond .none) u ∧ t = u.timerUpdate := by
  rw [step_of_stepInstr hi] at h
  obtain ⟨u, hu, ht⟩ := finishStep_eq_next_iff.mp h
  exact ⟨u, .of_exec _ _ _ hu, ht⟩

/-- A step that runs no instruction, waiting or at an unknown opcode, only counts the timers down. -/
theorem step_timers_of_no_instr (h : step s = .next t) (hi : stepInstr s = none) :
    t.dt = countDown s.dt ∧ t.st = countDown s.st := by
  cases stepKind_of_step h with
  | runs hsome _ => simp [hi] at hsome
  | unknown | waits | completes => exact ⟨rfl, rfl⟩

end

/-! ### The timers under the host operations (R40) -/

theorem keepsAllBut_refl (ps : List Part) (s : State) : KeepsAllBut ps s s := by
  intro p _
  cases p with
  | v | mem => exact fun _ => rfl
  | _ => rfl

theorem setKey_keepsAllBut (s : State) (k : Nibble) (b : Bool) : KeepsAllBut [.keys] s (s.setKey k b) := by
  intro p hp
  cases p with
  | keys => simp at hp
  | v | mem => exact fun _ => rfl
  | _ => rfl

theorem latchKey_keepsAllBut (s : State) (k : Nibble) : KeepsAllBut [.wait] s (s.latchKey k) := by
  obtain ⟨w, hw⟩ := s.latchKey_spec k
  rw [hw]
  intro p hp
  cases p with
  | wait => simp at hp
  | v | mem => exact fun _ => rfl
  | _ => rfl

theorem press_keepsAllBut (s : State) (k : Int) : KeepsAllBut [.wait, .keys] s (s.press k) := by
  unfold State.press
  split
  · exact keepsAllBut_append (latchKey_keepsAllBut s _) (setKey_keepsAllBut _ _ _)
  · exact keepsAllBut_refl _ s

theorem release_keepsAllBut (s : State) (k : Int) : KeepsAllBut [.keys] s (s.release k) := by
  unfold State.release
  split
  · exact setKey_keepsAllBut s _ _
  · exact keepsAllBut_refl _ s

/-- A load, whether it fits or not, leaves the timers of the reset state. -/
theorem loadProgram_timers (s : State) (bytes : List Byte) :
    (s.loadProgram bytes).2.dt = 0 ∧ (s.loadProgram bytes).2.st = 0 := by
  rcases Nat.lt_or_ge 3584 bytes.length with hlong | hfits
  · rw [s.loadProgram_tooLong hlong]
    exact ⟨rfl, rfl⟩
  · rw [s.loadProgram_fits hfits]
    exact ⟨rfl, rfl⟩

/-- Settles O14: a running step loads a timer by its instruction's frame before the update, every other step only
updates, and the host operations go by their own frames. -/
theorem timersFallByOnePerStep : Obligations.TimersFallByOnePerStep := by
  refine ⟨fun s => ⟨countDown_toNat s.dt, countDown_toNat s.st, timerUpdate_keepsAllBut s⟩, ?step,
    fun s bytes => ⟨rfl, rfl, loadProgram_timers s bytes⟩, ?host⟩
  case step =>
    intro s t h
    cases hi : stepInstr s with
    | none =>
      obtain ⟨hdt, hst⟩ := step_timers_of_no_instr h hi
      rw [hdt, hst]
      exact ⟨countDown_toNat s.dt, countDown_toNat s.st⟩
    | some i =>
      obtain ⟨u, hframe, rfl⟩ := execFrame_of_running_step h hi
      rw [State.timerUpdate_dt, State.timerUpdate_st, countDown_toNat, countDown_toNat, hframe.dt, hframe.st]
      -- Clearing `COND` first leaves the timers and the registers that the frame reads.
      cases i <;> exact ⟨rfl, rfl⟩
  case host =>
    intro o s t hstep hreset hload h
    cases o with
    | step => exact absurd rfl hstep
    | reset => exact absurd rfl hreset
    | loadProgram bytes => exact absurd rfl (hload bytes)
    | press k =>
      cases h
      exact ⟨press_keepsAllBut s k .dt (by simp), press_keepsAllBut s k .st (by simp)⟩
    | release k =>
      cases h
      exact ⟨release_keepsAllBut s k .dt (by simp), release_keepsAllBut s k .st (by simp)⟩
    | consumeRedraw | reseed =>
      cases h
      exact ⟨rfl, rfl⟩

end Sys2Proof.Proofs
end

section
/-! Placing an opcode (spec/20_memory.md R64, R72; notes/assumptions/10.md): the next fetch reads the placed word, and
the step runs what the decoder makes of it. -/

namespace Sys2Proof.Proofs

open Sys2Proof.Machine Sys2Proof.Safety

/-- The two bytes of an opcode are distinct, also where the second address wraps to 0. -/
theorem not_sameByte_add_one (a : Word) : ¬ SameByte (a + 1) a := by
  have h : (1 : Word).toNat = 1 := rfl
  rw [SameByte, BitVec.toNat_add, h]
  omega

@[simp] theorem placeOpcode_wait_waiting (s : State) (op : Word) : (s.placeOpcode op).wait.waiting = false := rfl

@[simp] theorem placeOpcode_pc (s : State) (op : Word) : (s.placeOpcode op).pc = s.pc := rfl

/-- As far as memory goes, placing is the two byte writes. -/
theorem placeOpcode_memRead (s : State) (op a : Word) : (s.placeOpcode op).memRead a =
    ((s.memWrite s.pc (op.extractLsb' 8 8)).memWrite (s.pc + 1) (op.extractLsb' 0 8)).memRead a := rfl

/-- The word placed is the word fetched: the second write leaves the byte of the first. -/
@[simp] theorem fetchOpcode_placeOpcode (s : State) (op : Word) : (s.placeOpcode op).fetchOpcode = op := by
  rw [State.fetchOpcode, placeOpcode_pc, placeOpcode_memRead, placeOpcode_memRead,
    memRead_memWrite_of_not_sameByte _ _ (not_sameByte_add_one s.pc), memRead_memWrite_of_sameByte _ _ rfl,
    memRead_memWrite_of_sameByte _ _ rfl, joinBytes_split]

theorem stepInstr_of_not_waiting {s : State} (hw : s.wait.waiting = false) :
    stepInstr s = (decode s.fetchOpcode).toOption := by
  cases hd : decode s.fetchOpcode <;> simp [stepInstr, hw, hd, Except.toOption]

theorem decodeTableWord_eq_toOption (nbits w : Nat) :
    decodeTableWord nbits w = (decode (tableWord nbits w)).toOption := by
  cases hd : decode (tableWord nbits w) <;>
    simp [decodeTableWord, splitWord, decodeBytes, hd, Except.map, Except.toOption]

/-- Settles O8: the step is out of the wait and fetches the table's word, from which both sides decode. -/
theorem placedOpcodeIsFetched : Obligations.PlacedOpcodeIsFetched := by
  intro s w hw
  rw [State.withFetchWord, stepInstr_of_not_waiting (placeOpcode_wait_waiting s _), fetchOpcode_placeOpcode]
  refine ⟨?_, (decodeTableWord_eq_toOption 16 w).symm⟩
  rw [tableWord, BitVec.toNat_ofNat, Nat.mod_mod]
  exact Nat.mod_eq_of_lt hw

end Sys2Proof.Proofs
end

section
/-! Memory, `I` and `WAIT` over all steps (spec/20_memory.md R63, spec/10_state.md R24, spec/48_keys_wait.md R208). -/

namespace Sys2Proof.Proofs

open Sys2Proof.Machine Sys2Proof.Safety

section

variable {s t : State}

theorem step_keeps_memory (h : step s = .next t) (hldB : ∀ x, stepInstr s ≠ some (.ldB x))
    (hstore : ∀ x, stepInstr s ≠ some (.storeRegs x)) : t.mem = s.mem := by
  cases stepKind_of_step h with
  | runs hi hu =>
    rw [hi] at hldB hstore
    exact (ExecFrame.of_exec _ _ _ hu).mem (fun x => ne_of_apply_ne some (hldB x))
      fun x => ne_of_apply_ne some (hstore x)
  | unknown | waits | completes => rfl

theorem step_keeps_index (h : step s = .next t) (hldI : ∀ nnn, stepInstr s ≠ some (.ldI nnn))
    (haddI : ∀ x, stepInstr s ≠ some (.addI x)) (hldF : ∀ x, stepInstr s ≠ some (.ldF x)) : t.i = s.i := by
  cases stepKind_of_step h with
  | runs hi hu =>
    rw [hi] at hldI haddI hldF
    exact (ExecFrame.of_exec _ _ _ hu).ix (fun nnn => ne_of_apply_ne some (hldI nnn))
      (fun x => ne_of_apply_ne some (haddI x)) fun x => ne_of_apply_ne some (hldF x)
  | unknown | waits | completes => rfl

theorem step_keeps_wait (h : step s = .next t) (hldVxK : ∀ x, stepInstr s ≠ some (.ldVxK x))
    (hunlatched : s.wait.waiting = true → s.wait.latched = false) : t.wait = s.wait := by
  cases stepKind_of_step h with
  | runs hi hu =>
    rw [hi] at hldVxK
    exact (ExecFrame.of_exec _ _ _ hu).wait fun x => ne_of_apply_ne some (hldVxK x)
  | unknown | waits => rfl
  | completes hw hl => simp [hunlatched hw] at hl

end

/-- Settles O20: the three frames over the four kinds of step; equal memory reads alike everywhere. -/
theorem memoryIndexAndWaitWriters : Obligations.MemoryIndexAndWaitWriters := by
  refine fun s t h => ⟨fun hldB hstore a => ?_, step_keeps_index h, step_keeps_wait h⟩
  rw [State.memRead, State.memRead, step_keeps_memory h hldB hstore]

end Sys2Proof.Proofs
end

section
/-! Keys and the key wait (spec/48_keys_wait.md R207, R209, R212): entering the wait, a step that waits on, and the key
events of the host. -/

namespace Sys2Proof.Proofs

open Sys2Proof.Machine Sys2Proof.Safety

/-! ### Entering the wait (R207), and waiting on (R212) -/

theorem enterWait_keepsAllBut (s : State) (x : Nibble) : KeepsAllBut [.wait] s (s.enterWait x) := by
  intro p hp
  cases p with
  | wait => simp at hp
  | v | mem => exact fun _ => rfl
  | _ => rfl

theorem exec_ldVxK (x : Nibble) (s : State) : exec (.ldVxK x) s = .next (s.enterWait x) := rfl

/-- Settles O60: the instruction is the entering of the wait, with no advance of `pc`. -/
theorem keyWaitIsEntered : Obligations.KeyWaitIsEntered := fun s x =>
  ⟨_, exec_ldVxK x s, rfl, rfl, rfl, enterWait_keepsAllBut s x⟩

/-- Settles O11: the frame of a waiting step, and the timers of a step that runs no instruction. -/
theorem waitingStepMovesTimersOnly : Obligations.WaitingStepMovesTimersOnly := by
  intro s hw hl
  have hstep := step_of_not_latched hw hl
  obtain ⟨hcond, hkeep⟩ := waiting_step_keepsAllBut hstep hw hl
  obtain ⟨hdt, hst⟩ := step_timers_of_no_instr hstep (stepInstr_of_waiting hw)
  refine ⟨_, hstep, hcond, hkeep .pc (by simp), ?_, ?_, hkeep⟩
  · rw [hdt, countDown_toNat]
  · rw [hst, countDown_toNat]

/-! ### Key events (R209) -/

theorem keyOfInt_of_not_index {k : Int} (hk : ¬ (0 ≤ k ∧ k ≤ 15)) : keyOfInt k = none := if_neg hk

theorem press_of_not_index (s : State) {k : Int} (hk : ¬ (0 ≤ k ∧ k ≤ 15)) : s.press k = s := by
  rw [State.press, keyOfInt_of_not_index hk]

theorem release_of_not_index (s : State) {k : Int} (hk : ¬ (0 ≤ k ∧ k ≤ 15)) : s.release k = s := by
  rw [State.release, keyOfInt_of_not_index hk]

theorem press_toNat (s : State) (j : Nibble) : s.press j.toNat = (s.latchKey j).setKey j true := by
  rw [State.press, keyOfInt_toNat]

theorem release_toNat (s : State) (j : Nibble) : s.release j.toNat = s.setKey j false := by
  rw [State.release, keyOfInt_toNat]

theorem keyDown_press (s : State) (j k : Nibble) :
    (s.press j.toNat).keyDown k = if k = j then true else s.keyDown k := by
  rw [press_toNat, State.keyDown_setKey, State.keyDown_latchKey]

theorem keyDown_release (s : State) (j k : Nibble) :
    (s.release j.toNat).keyDown k = if k = j then false else s.keyDown k := by
  rw [release_toNat, State.keyDown_setKey]

/-- The latch takes no key that is down already (R210, D21). -/
theorem latchKey_of_down {s : State} {j : Nibble} (hj : s.keyDown j = true) : s.latchKey j = s := by
  simp [State.latchKey, hj]

theorem press_of_down {s : State} {j : Nibble} (hj : s.keyDown j = true) : s.press j.toNat = s := by
  rw [press_toNat, latchKey_of_down hj, ← hj, State.setKey_self]

theorem release_of_up {s : State} {j : Nibble} (hj : s.keyDown j = false) : s.release j.toNat = s := by
  rw [release_toNat, ← hj, State.setKey_self]

/-- Settles O28: an index names no key, or one key, whose state the event sets after the latch has seen it. -/
theorem pressAndReleaseKeys : Obligations.PressAndReleaseKeys := by
  refine fun s k => ⟨fun hk => ⟨press_of_not_index s hk, release_of_not_index s hk⟩, ?key,
    keepsAllBut_mono (by simp) (press_keepsAllBut s k), release_keepsAllBut s k⟩
  case key =>
    rintro j rfl
    refine ⟨?down, ?up, fun j' hne => ⟨?_, ?_⟩, ?latch, press_of_down, release_of_up⟩
    case down => rw [keyDown_press, if_pos rfl]
    case up => rw [keyDown_release, if_pos rfl]
    · rw [keyDown_press, if_neg hne]
    · rw [keyDown_release, if_neg hne]
    case latch => rw [press_toNat, State.setKey_wait]

end Sys2Proof.Proofs
end

section
/-! The decoder and the encoder as each other's inverse (spec/30_encoding.md sections 2 to 4): what the decoder answers
by leading nibble, on an encoding, and on the opcodes it rejects. -/

namespace Sys2Proof.Proofs

/-! ### The decoder by leading nibble (R94) -/

section

variable {op : Word}

theorem decode_of_lead_0 (hl : fieldLead op = 0x0#4) : decode op = .ok (decode0 op) := by
  simp [decode, hl]

theorem decode_of_lead_1 (hl : fieldLead op = 0x1#4) : decode op = .ok (.jp (fieldNNN op)) := by
  simp [decode, hl]

theorem decode_of_lead_2 (hl : fieldLead op = 0x2#4) : decode op = .ok (.call (fieldNNN op)) := by
  simp [decode, hl]

theorem decode_of_lead_3 (hl : fieldLead op = 0x3#4) : decode op = .ok (.seImm (fieldX op) (fieldKK op)) := by
  simp [decode, hl]

theorem decode_of_lead_4 (hl : fieldLead op = 0x4#4) : decode op = .ok (.sneImm (fieldX op) (fieldKK op)) := by
  simp [decode, hl]

theorem decode_of_lead_5 (hl : fieldLead op = 0x5#4) : decode op =
    if fieldN op = 0x0#4 then .ok (.seReg (fieldX op) (fieldY op)) else .error .unknown5 := by
  simp [decode, hl]

theorem decode_of_lead_6 (hl : fieldLead op = 0x6#4) : decode op = .ok (.ldImm (fieldX op) (fieldKK op)) := by
  simp [decode, hl]

theorem decode_of_lead_7 (hl : fieldLead op = 0x7#4) : decode op = .ok (.addImm (fieldX op) (fieldKK op)) := by
  simp [decode, hl]

theorem decode_of_lead_8 (hl : fieldLead op = 0x8#4) : decode op = decode8 op := by
  simp [decode, hl]

theorem decode_of_lead_9 (hl : fieldLead op = 0x9#4) : decode op =
    if fieldN op = 0x0#4 then .ok (.sneReg (fieldX op) (fieldY op)) else .error .unknown9 := by
  simp [decode, hl]

theorem decode_of_lead_A (hl : fieldLead op = 0xA#4) : decode op = .ok (.ldI (fieldNNN op)) := by
  simp [decode, hl]

theorem decode_of_lead_B (hl : fieldLead op = 0xB#4) : decode op = .ok (.jpV0 (fieldNNN op)) := by
  simp [decode, hl]

theorem decode_of_lead_C (hl : fieldLead op = 0xC#4) : decode op = .ok (.rnd (fieldX op) (fieldKK op)) := by
  simp [decode, hl]

theorem decode_of_lead_D (hl : fieldLead op = 0xD#4) : decode op =
    .ok (.drw (fieldX op) (fieldY op) (fieldN op)) := by
  simp [decode, hl]

theorem decode_of_lead_E (hl : fieldLead op = 0xE#4) : decode op = decodeE op := by
  simp [decode, hl]

theorem decode_of_lead_F (hl : fieldLead op = 0xF#4) : decode op = decodeF op := by
  simp [decode, hl]

end

/-! ### Decoding an encoding -/

/-- The field `nnn` separates `SYS` from `CLS` and `RET`, which are the words `00E0` and `00EE` (R96, row 1). -/
theorem decode_formNNN_0 {nnn : Addr} (hcls : nnn ≠ 0x0E0#12) (hret : nnn ≠ 0x0EE#12) :
    decode (formNNN 0x0#4 nnn) = .ok (.sys nnn) := by
  have hword : ∀ op, nnn ≠ fieldNNN op → formNNN 0x0#4 nnn ≠ op := fun op hne he =>
    hne (by rw [← he, fieldNNN_formNNN])
  rw [decode_of_lead_0 (fieldLead_formNNN _ _), decode0, if_neg (hword 0x00E0#16 hcls),
    if_neg (hword 0x00EE#16 hret), fieldNNN_formNNN]

theorem decode_encode {i : Instr} (hwf : WellFormed i = true) : decode (encode i) = .ok i := by
  cases i with
  | sys nnn =>
    simp only [WellFormed, Bool.and_eq_true, bne_iff_ne] at hwf
    exact decode_formNNN_0 hwf.1 hwf.2
  | cls | ret => decide
  -- Every other row keeps its operands in the fields that its arm of the decoder reads back.
  | _ => simp [encode, decode, decode8, decodeE, decodeF]

/-- Settles O3: the two bytes join to the encoding, which decodes to its instruction. -/
theorem decodeEncodeRoundTrip : Obligations.DecodeEncodeRoundTrip := fun i hwf =>
  decodeBytes_of_decode (joinBytes_split (encode i)) (decode_encode hwf)

/-- Settles O2: each word is the encoding of its instruction. -/
theorem familyOpcodesDecode : Obligations.FamilyOpcodesDecode :=
  ⟨decode_encode (i := .sys 0x123) rfl, decode_encode (i := .cls) rfl, decode_encode (i := .ret) rfl,
    decode_encode (i := .jpV0 0xFFF) rfl, decode_encode (i := .sneReg 1 2) rfl,
    decode_encode (i := .sub 1 2) rfl, decode_encode (i := .ldB 1) rfl, decode_encode (i := .rnd 1 0x0F) rfl,
    decode_encode (i := .ldStVx 1) rfl, decode_encode (i := .sknp 1) rfl, decode_encode (i := .ldVxK 3) rfl⟩

/-! ### Encoding what was decoded -/

/-- The one reading of an opcode: the well-formed instruction it is the encoding of. -/
def ReadingOf (op : Word) (i : Instr) : Prop := encode i = op ∧ WellFormed i = true

section

variable {op : Word} {i : Instr} {l : Nibble}

theorem formNNN_of_fields (hl : fieldLead op = l) : formNNN l (fieldNNN op) = op :=
  hl ▸ formNNN_fields op

theorem formXKK_of_fields {kk : Byte} (hl : fieldLead op = l) (hkk : fieldKK op = kk) :
    formXKK l (fieldX op) kk = op :=
  hl ▸ hkk ▸ formXKK_fields op

theorem formXYN_of_fields {n : Nibble} (hl : fieldLead op = l) (hn : fieldN op = n) :
    formXYN l (fieldX op) (fieldY op) n = op :=
  hl ▸ hn ▸ formXYN_fields op

theorem readingOf_decode0 (hl : fieldLead op = 0x0#4) : ReadingOf op (decode0 op) := by
  have hword : formNNN 0x0 (fieldNNN op) = op := formNNN_of_fields hl
  unfold decode0
  split_ifs with hcls hret
  · exact ⟨hcls.symm, rfl⟩
  · exact ⟨hret.symm, rfl⟩
  · refine ⟨hword, ?_⟩
    simp only [WellFormed, Bool.and_eq_true, bne_iff_ne]
    exact ⟨fun h => hcls (by rw [← hword, h]; rfl), fun h => hret (by rw [← hword, h]; rfl)⟩

theorem readingOf_of_decode8 (hl : fieldLead op = 0x8#4) (h : decode8 op = .ok i) : ReadingOf op i := by
  unfold decode8 at h
  dsimp only at h
  split_ifs at h <;> cases h <;> exact ⟨formXYN_of_fields hl ‹_›, rfl⟩

theorem readingOf_of_decodeE (hl : fieldLead op = 0xE#4) (h : decodeE op = .ok i) : ReadingOf op i := by
  unfold decodeE at h
  split_ifs at h <;> cases h <;> exact ⟨formXKK_of_fields hl ‹_›, rfl⟩

theorem readingOf_of_decodeF (hl : fieldLead op = 0xF#4) (h : decodeF op = .ok i) : ReadingOf op i := by
  unfold decodeF at h
  dsimp only at h
  split_ifs at h <;> cases h <;> exact ⟨formXKK_of_fields hl ‹_›, rfl⟩

end

/-- Settles O4: by leading nibble, the fields the decoder reads build the opcode again. -/
theorem encodeDecodeRoundTrip : Obligations.EncodeDecodeRoundTrip := by
  intro op i h
  rcases nibble_cases (fieldLead op) with
    hl | hl | hl | hl | hl | hl | hl | hl | hl | hl | hl | hl | hl | hl | hl | hl
  · cases (decode_of_lead_0 hl).symm.trans h; exact readingOf_decode0 hl
  · cases (decode_of_lead_1 hl).symm.trans h; exact ⟨formNNN_of_fields hl, rfl⟩
  · cases (decode_of_lead_2 hl).symm.trans h; exact ⟨formNNN_of_fields hl, rfl⟩
  · cases (decode_of_lead_3 hl).symm.trans h; exact ⟨formXKK_of_fields hl rfl, rfl⟩
  · cases (decode_of_lead_4 hl).symm.trans h; exact ⟨formXKK_of_fields hl rfl, rfl⟩
  · rw [decode_of_lead_5 hl] at h
    split_ifs at h with hn
    cases h; exact ⟨formXYN_of_fields hl hn, rfl⟩
  · cases (decode_of_lead_6 hl).symm.trans h; exact ⟨formXKK_of_fields hl rfl, rfl⟩
  · cases (decode_of_lead_7 hl).symm.trans h; exact ⟨formXKK_of_fields hl rfl, rfl⟩
  · exact readingOf_of_decode8 hl ((decode_of_lead_8 hl).symm.trans h)
  · rw [decode_of_lead_9 hl] at h
    split_ifs at h with hn
    cases h; exact ⟨formXYN_of_fields hl hn, rfl⟩
  · cases (decode_of_lead_A hl).symm.trans h; exact ⟨formNNN_of_fields hl, rfl⟩
  · cases (decode_of_lead_B hl).symm.trans h; exact ⟨formNNN_of_fields hl, rfl⟩
  · cases (decode_of_lead_C hl).symm.trans h; exact ⟨formXKK_of_fields hl rfl, rfl⟩
  · cases (decode_of_lead_D hl).symm.trans h; exact ⟨formXYN_of_fields hl rfl, rfl⟩
  · exact readingOf_of_decodeE hl ((decode_of_lead_E hl).symm.trans h)
  · exact readingOf_of_decodeF hl ((decode_of_lead_F hl).symm.trans h)

/-! ### What the decoder rejects (R97) -/

theorem fieldLead_toNat (op : Word) : (fieldLead op).toNat = op.toNat / 4096 := by
  rw [fieldLead, BitVec.extractLsb'_toNat, Nat.shiftRight_eq_div_pow]
  omega

theorem fieldN_toNat (op : Word) : (fieldN op).toNat = op.toNat % 16 := rfl

theorem fieldKK_toNat (op : Word) : (fieldKK op).toNat = op.toNat % 256 := rfl

section

variable (op : Word)

theorem decode8_rejects_iff :
    (∃ r, decode8 op = .error r) ↔ op.toNat % 16 ∈ [0x8, 0x9, 0xA, 0xB, 0xC, 0xD, 0xF] := by
  rw [← fieldN_toNat]
  rcases nibble_cases (fieldN op) with
    hn | hn | hn | hn | hn | hn | hn | hn | hn | hn | hn | hn | hn | hn | hn | hn <;> simp [decode8, hn]

theorem decodeE_rejects_iff : (∃ r, decodeE op = .error r) ↔ op.toNat % 256 ∉ [0x9E, 0xA1] := by
  rw [← fieldKK_toNat]
  unfold decodeE
  split_ifs <;> simp_all [BitVec.toNat_eq]

theorem decodeF_rejects_iff : (∃ r, decodeF op = .error r) ↔
    op.toNat % 256 ∉ [0x07, 0x0A, 0x15, 0x18, 0x1E, 0x29, 0x33, 0x55, 0x65] := by
  rw [← fieldKK_toNat]
  unfold decodeF
  dsimp only
  split_ifs <;> simp_all [BitVec.toNat_eq]

theorem ite_rejects_iff (i : Instr) (e : Reject) :
    (∃ r, (if fieldN op = 0x0#4 then .ok i else .error e : Except Reject Instr) = .error r) ↔
      op.toNat % 16 ≠ 0 := by
  rw [← fieldN_toNat]
  split_ifs <;> simp_all [BitVec.toNat_eq]

end

/-- Settles O5: by leading nibble. -/
theorem unknownSpaceAsListed : Obligations.UnknownSpaceAsListed := by
  intro op
  rw [← fieldLead_toNat]
  rcases nibble_cases (fieldLead op) with
    hl | hl | hl | hl | hl | hl | hl | hl | hl | hl | hl | hl | hl | hl | hl | hl
  · rw [decode_of_lead_0 hl]; simp [hl]
  · rw [decode_of_lead_1 hl]; simp [hl]
  · rw [decode_of_lead_2 hl]; simp [hl]
  · rw [decode_of_lead_3 hl]; simp [hl]
  · rw [decode_of_lead_4 hl]; simp [hl]
  · rw [decode_of_lead_5 hl, ite_rejects_iff]; simp [hl]
  · rw [decode_of_lead_6 hl]; simp [hl]
  · rw [decode_of_lead_7 hl]; simp [hl]
  · rw [decode_of_lead_8 hl, decode8_rejects_iff]; simp [hl]
  · rw [decode_of_lead_9 hl, ite_rejects_iff]; simp [hl]
  · rw [decode_of_lead_A hl]; simp [hl]
  · rw [decode_of_lead_B hl]; simp [hl]
  · rw [decode_of_lead_C hl]; simp [hl]
  · rw [decode_of_lead_D hl]; simp [hl]
  · rw [decode_of_lead_E hl, decodeE_rejects_iff]; simp [hl]
  · rw [decode_of_lead_F hl, decodeF_rejects_iff]; simp [hl]

end Sys2Proof.Proofs
end

section
/-! Every instruction completes (spec/60_exceptions.md section 4), and so does every step and every run of host
operations; the two instructions with two answers, inverted. -/

namespace Sys2Proof.Proofs

open Sys2Proof.Machine Sys2Proof.Safety

theorem exec_total (i : Instr) (s : State) : ∃ t, exec i s = .next t := by
  cases i with
  | ret =>
    rcases s.pop_spec with ⟨h, -⟩ | ⟨k, hk, h, -⟩
    · exact ⟨_, exec_ret_of_empty h⟩
    · exact ⟨_, exec_ret_of_entry hk h⟩
  | call nnn =>
    rcases s.push_spec s.npc with ⟨h, -⟩ | ⟨h, -⟩
    · exact ⟨_, exec_call_of_full nnn h⟩
    · exact ⟨_, exec_call_of_room nnn h rfl⟩
  | _ => exact ⟨_, rfl⟩

/-- Everything `RET` can do. -/
theorem exec_ret_cases {s t : State} (h : exec .ret s = .next t) :
    (s.sp.val = 0 ∧ t = s.raise .stackUnderflow) ∨
    ∃ (k : Nat) (hk : k < 16), s.sp.val = k + 1 ∧
      t = State.setPc { s with sp := ⟨k, by omega⟩ } s.stack[k] := by
  rcases s.pop_spec with ⟨hempty, -⟩ | ⟨k, hk, hsp, -⟩
  · cases (exec_ret_of_empty hempty).symm.trans h
    exact .inl ⟨hempty, rfl⟩
  · cases (exec_ret_of_entry hk hsp).symm.trans h
    exact .inr ⟨k, hk, hsp, rfl⟩

/-- Everything `CALL` can do. -/
theorem exec_call_cases {s t : State} {nnn : Addr} (h : exec (.call nnn) s = .next t) :
    (s.sp.val = 16 ∧ t = s.raise .stackOverflow) ∨
    ∃ (hroom : s.sp.val < 16), t = State.setPc { s with
      stack := s.stack.set s.sp.val (wrap12 s.npc) hroom, sp := ⟨s.sp.val + 1, by omega⟩ } (addrWord nnn) := by
  rcases s.push_spec s.npc with ⟨hfull, -⟩ | ⟨hroom, -⟩
  · cases (exec_call_of_full nnn hfull).symm.trans h
    exact .inl ⟨hfull, rfl⟩
  · cases (exec_call_of_room nnn hroom rfl).symm.trans h
    exact .inr ⟨hroom, rfl⟩

theorem step_total (s : State) : ∃ t, step s = .next t := by
  cases hi : stepInstr s with
  | some i =>
    obtain ⟨u, hu⟩ := exec_total i (s.setCond .none)
    exact ⟨_, (step_of_stepInstr hi).trans (finishStep_eq_next_iff.mpr ⟨u, hu, rfl⟩)⟩
  | none =>
    cases hw : s.wait.waiting with
    | false => exact ⟨_, step_of_unknown hw hi⟩
    | true =>
      cases hl : s.wait.latched with
      | false => exact ⟨_, step_of_not_latched hw hl⟩
      | true => exact ⟨_, step_of_latched hw hl⟩

theorem applyOp_total (o : HostOp) (s : State) : ∃ t, applyOp o s = .next t := by
  cases o with
  | step => exact step_total s
  | _ => exact ⟨_, rfl⟩

/-- A run goes on from the state its first operation leaves. -/
theorem runOps_cons {o : HostOp} {s t : State} (h : applyOp o s = .next t) (os : List HostOp) :
    runOps (o :: os) s = runOps os t := by
  rw [runOps, h]

theorem runOps_total (ops : List HostOp) (s : State) : ∃ t, runOps ops s = .next t := by
  induction ops generalizing s with
  | nil => exact ⟨s, rfl⟩
  | cons o os ih =>
    obtain ⟨t, ht⟩ := applyOp_total o s
    rw [runOps_cons ht]
    exact ih t

/-- Settles O13: totality of `exec`, carried to the step and by induction to the runs. -/
theorem machineStaysSteppable : Obligations.MachineStaysSteppable := ⟨exec_total, runOps_total⟩

end Sys2Proof.Proofs
end

section
/-! Conditions, registers and the call stack over all steps (spec/60_exceptions.md section 1, spec/10_state.md sections
2, 4, 5): the four kinds of step, a running one by its instruction's frame. -/

namespace Sys2Proof.Proofs

open Sys2Proof.Machine Sys2Proof.Safety

/-- The condition code an instruction records where none was recorded before it. -/
theorem condObserved_of_exec {i : Instr} {s t : State} (h : exec i s = .next t) (hs : s.cond = .none) :
    t.condObserved = match i with
      | .sys _ => 3
      | .call _ => if s.sp.val = 16 then 1 else 0
      | .ret => if s.sp.val = 0 then 2 else 0
      | _ => 0 := by
  have hcond := (ExecFrame.of_exec i s t h).cond
  rw [hs] at hcond
  rw [State.condObserved, hcond]
  cases i with
  | call | ret => exact apply_ite condCode _ _ _
  | _ => rfl

/-- A step out of the wait runs no instruction exactly at an unknown opcode. -/
theorem stepInstr_eq_none_iff {s : State} (hw : s.wait.waiting = false) :
    stepInstr s = none ↔ ∃ r, decode s.fetchOpcode = .error r := by
  rw [stepInstr_of_not_waiting hw]
  cases decode s.fetchOpcode <;> simp [Except.toOption]

/-- Settles O16: a running step records what its instruction does after `COND` was cleared. -/
theorem conditionOfEachStep : Obligations.ConditionOfEachStep := by
  intro s t h
  cases stepKind_of_step h with
  | @runs i u hi hu =>
    obtain ⟨hw, hd⟩ := stepInstr_eq_some_iff.mp hi
    have hcode := condObserved_of_exec hu rfl
    rw [hw, hd]
    cases i <;> exact hcode
  | unknown hw hi =>
    obtain ⟨r, hd⟩ := (stepInstr_eq_none_iff hw).mp hi
    rw [hw, hd]
    rfl
  | waits hw | completes hw =>
    rw [hw]
    rfl

/-- Settles O17: a running step by its instruction's frame, a completing one by the register it stores. -/
theorem registersWrittenOnlyAsListed : Obligations.RegistersWrittenOnlyAsListed := by
  intro s t h r hlisted htarget
  cases stepKind_of_step h with
  | runs hi hu => exact (ExecFrame.of_exec _ _ _ hu).v r (hlisted _ hi)
  | unknown | waits => rfl
  | completes hw hl => rw [State.timerUpdate_getV, State.setCond_getV, getV_completeWait, if_neg (htarget hw hl)]

/-- Settles O18: only a running step can touch the stack, and it does what its instruction's frame says. -/
theorem stackChangedOnlyByCallAndRet : Obligations.StackChangedOnlyByCallAndRet := by
  intro s t h hcall
  cases stepKind_of_step h with
  | runs hi hu =>
    have hframe := ExecFrame.of_exec _ _ _ hu
    rw [hi] at hcall ⊢
    have hne := fun nnn => ne_of_apply_ne some (hcall nnn)
    exact ⟨hframe.stack hne, fun hret => hframe.sp hne (ne_of_apply_ne some hret)⟩
  | unknown | waits | completes => exact ⟨rfl, fun _ => rfl⟩

end Sys2Proof.Proofs
end

section
/-! The memory forms of the index register (spec/44_index_memory.md R173 to R175): the decimal digits and the register
blocks, by the addresses of their operands. -/

namespace Sys2Proof.Proofs

open Sys2Proof.Machine Sys2Proof.Safety

/-! ### `LD [I], Vx` (R174) -/

theorem exec_storeRegs (x : Nibble) (s : State) :
    exec (.storeRegs x) s = .next (s.storeBlock (x.toNat + 1)).advance := rfl

theorem storeBlock_keepsAllBut (s : State) {n : Nat} (hn : n ≤ 16) : KeepsAllBut [.mem] s (s.storeBlock n) := by
  obtain ⟨⟨m, hm⟩, -⟩ := s.storeBlock_spec n hn
  rw [hm]
  intro p hp
  cases p with
  | mem => simp at hp
  | v => exact fun _ => rfl
  | _ => rfl

/-- How far an address lies above `I`, around the 4096 bytes: the form in which `State.storeBlock_spec` names it. -/
theorem offset_of_sameByte_operandAddr {s : State} {a : Word} {k : Nat} (hk : k < 4096)
    (h : SameByte a (s.operandAddr k)) : (a.toNat + 4096 - s.i.toNat % 4096) % 4096 = k := by
  rw [SameByte, s.operandAddr_toNat] at h
  omega

theorem sameByte_operandAddr_offset (s : State) (a : Word) :
    SameByte a (s.operandAddr ((a.toNat + 4096 - s.i.toNat % 4096) % 4096)) := by
  rw [SameByte, s.operandAddr_toNat]
  omega

theorem memRead_storeBlock_of_operand (s : State) {n : Nat} (hn : n ≤ 16) {r : Nibble} (hr : r.toNat < n) :
    (s.storeBlock n).memRead (s.operandAddr r.toNat) = s.getV r := by
  obtain ⟨-, hread⟩ := s.storeBlock_spec n hn
  rw [hread, offset_of_sameByte_operandAddr (by omega) rfl, if_pos hr, BitVec.ofNat_toNat, BitVec.setWidth_eq]

theorem memRead_storeBlock_of_not_operand (s : State) {n : Nat} (hn : n ≤ 16) {a : Word}
    (ha : ∀ k < n, ¬ SameByte a (s.operandAddr k)) : (s.storeBlock n).memRead a = s.memRead a := by
  obtain ⟨-, hread⟩ := s.storeBlock_spec n hn
  rw [hread, if_neg fun hlt => ha _ hlt (sameByte_operandAddr_offset s a)]

/-- Settles O53: the loop of stores, read at its operands and at the other bytes; then `pc` advances. -/
theorem registerBlockStored : Obligations.RegisterBlockStored := by
  intro s x
  have hn : x.toNat + 1 ≤ 16 := x.isLt
  exact ⟨_, exec_storeRegs x s,
    fun r hr => memRead_storeBlock_of_operand s hn (Nat.lt_succ_of_le hr),
    fun a ha => memRead_storeBlock_of_not_operand s hn fun k hk => ha k (Nat.le_of_lt_succ hk),
    (storeBlock_keepsAllBut s hn .pc (by simp)) ▸ advance_goesTo (s.storeBlock (x.toNat + 1)),
    keepsAllBut_setPc (storeBlock_keepsAllBut s hn) _⟩

/-! ### `LD Vx, [I]` (R175) -/

theorem exec_loadRegs (x : Nibble) (s : State) :
    exec (.loadRegs x) s = .next (s.loadBlock (x.toNat + 1)).advance := rfl

theorem loadBlock_keepsAllBut (s : State) {n : Nat} (hn : n ≤ 16) : KeepsAllBut [.v] s (s.loadBlock n) := by
  obtain ⟨⟨w, hw⟩, -⟩ := s.loadBlock_spec n hn
  rw [hw]
  intro p hp
  cases p with
  | v => simp at hp
  | mem => exact fun _ => rfl
  | _ => rfl

theorem operandByte_eq_readByte (s : State) (k : Nat) : s.operandByte k = s.readByte (s.i.toNat + k) := by
  rw [State.operandByte, State.memRead_eq_readByte]
  exact s.readByte_congr (s.operandAddr_toNat k)

/-- Settles O54: the loop of loads writes the registers up to `x`; then `pc` advances. -/
theorem registerBlockLoaded : Obligations.RegisterBlockLoaded := by
  intro s x
  have hn : x.toNat + 1 ≤ 16 := x.isLt
  obtain ⟨-, hv⟩ := s.loadBlock_spec _ hn
  refine ⟨_, exec_loadRegs x s, fun r => ?_,
    (loadBlock_keepsAllBut s hn .pc (by simp)) ▸ advance_goesTo (s.loadBlock (x.toNat + 1)),
    keepsAllBut_append (loadBlock_keepsAllBut s hn) (setPc_keepsAllBut _ _)⟩
  rw [State.advance_getV, hv, operandByte_eq_readByte]
  simp only [Nat.lt_succ_iff]

/-! ### `LD B, Vx` (R173) -/

theorem exec_ldB (x : Nibble) (s : State) : exec (.ldB x) s =
    .next (((s.memWrite (s.operandAddr 0) (bcdHundreds (s.getV x))).memWrite (s.operandAddr 1)
      (bcdTens (s.getV x))).memWrite (s.operandAddr 2) (bcdOnes (s.getV x))).advance := rfl

theorem not_sameByte_operandAddr (s : State) {j k : Nat} (hj : j < 4096) (hk : k < 4096) (hne : j ≠ k) :
    ¬ SameByte (s.operandAddr j) (s.operandAddr k) := by
  rw [SameByte, s.operandAddr_toNat, s.operandAddr_toNat]
  omega

theorem bcdHundreds_toNat (b : Byte) : (bcdHundreds b).toNat = b.toNat / 100 := by
  rw [bcdHundreds, BitVec.toNat_ofNat]
  omega

theorem bcdTens_toNat (b : Byte) : (bcdTens b).toNat = b.toNat / 10 % 10 := by
  rw [bcdTens, BitVec.toNat_ofNat]
  omega

theorem bcdOnes_toNat (b : Byte) : (bcdOnes b).toNat = b.toNat % 10 := by
  rw [bcdOnes, BitVec.toNat_ofNat]
  omega

/-- Settles O52: three writes to distinct bytes, each kept by the later ones. -/
theorem decimalDigitsStored : Obligations.DecimalDigitsStored := by
  intro s x
  have hapart : ∀ j < 3, ∀ k < 3, j ≠ k → ¬ SameByte (s.operandAddr j) (s.operandAddr k) := fun j hj k hk =>
    not_sameByte_operandAddr s (by omega) (by omega)
  refine ⟨_, exec_ldB x s, ?hundreds, ?tens, ?ones, ?others, advance_goesTo _, ?frame⟩
  case hundreds =>
    rw [State.advance_memRead, memRead_memWrite_of_not_sameByte _ _ (hapart 2 (by omega) 0 (by omega) (by omega)),
      memRead_memWrite_of_not_sameByte _ _ (hapart 1 (by omega) 0 (by omega) (by omega)),
      memRead_memWrite_of_sameByte _ _ rfl, bcdHundreds_toNat]
  case tens =>
    rw [State.advance_memRead, memRead_memWrite_of_not_sameByte _ _ (hapart 2 (by omega) 1 (by omega) (by omega)),
      memRead_memWrite_of_sameByte _ _ rfl, bcdTens_toNat]
  case ones => rw [State.advance_memRead, memRead_memWrite_of_sameByte _ _ rfl, bcdOnes_toNat]
  case others =>
    intro a ha
    have hne : ∀ k < 3, ¬ SameByte (s.operandAddr k) a := fun k hk h => ha k hk h.symm
    rw [State.advance_memRead, memRead_memWrite_of_not_sameByte _ _ (hne 2 (by omega)),
      memRead_memWrite_of_not_sameByte _ _ (hne 1 (by omega)), memRead_memWrite_of_not_sameByte _ _ (hne 0 (by omega))]
  case frame =>
    exact keepsAllBut_mono (by simp) (keepsAllBut_setPc (keepsAllBut_append (memWrite_keepsAllBut_mem s _ _)
      (keepsAllBut_append (memWrite_keepsAllBut_mem _ _ _) (memWrite_keepsAllBut_mem _ _ _))) _)

end Sys2Proof.Proofs
end

section
/-! The pieces of state that are for the host only: `ST`, `redraw` and `COND` (spec/10_state.md R29, R34, R35). What
an instruction makes of the rest does not depend on them. -/

namespace Sys2Proof.Proofs

open Sys2Proof.Machine Sys2Proof.Safety

/-- The state with the three pieces only the host reads set as given. -/
def withHostOnly (s : State) (st : Byte) (redraw : Bool) (cond : Cond) : State :=
  { s with st := st, redraw := redraw, cond := cond }

section

variable (s : State) (st : Byte) (redraw : Bool) (cond : Cond)

theorem skipIf_withHostOnly (taken : Bool) :
    (withHostOnly s st redraw cond).skipIf taken = withHostOnly (s.skipIf taken) st redraw cond := by
  cases taken <;> rfl

theorem plotSprite_withHostOnly (x y n : Nat) :
    (withHostOnly s st redraw cond).plotSprite x y n = s.plotSprite x y n := by
  induction n with
  | zero => rfl
  | succ n ih => rw [State.plotSprite, ih]; rfl

theorem storeBlock_withHostOnly (n : Nat) :
    (withHostOnly s st redraw cond).storeBlock n = withHostOnly (s.storeBlock n) st redraw cond := by
  induction n with
  | zero => rfl
  | succ n ih => rw [State.storeBlock, ih]; rfl

theorem loadBlock_withHostOnly (n : Nat) :
    (withHostOnly s st redraw cond).loadBlock n = withHostOnly (s.loadBlock n) st redraw cond := by
  induction n with
  | zero => rfl
  | succ n ih => rw [State.loadBlock, ih]; rfl

end

/-- The answer is the state `t`, but for the three pieces only the host reads. -/
def AnswersAlike (a : Answer) (t : State) : Prop :=
  ∃ st redraw cond, a = .next (withHostOnly t st redraw cond)

theorem exec_ret_withHostOnly {s t : State} (st : Byte) (redraw : Bool) (cond : Cond) (h : exec .ret s = .next t) :
    AnswersAlike (exec .ret (withHostOnly s st redraw cond)) t := by
  rcases exec_ret_cases h with ⟨hempty, rfl⟩ | ⟨k, hk, hsp, rfl⟩
  · exact ⟨_, _, _, exec_ret_of_empty (s := withHostOnly s st redraw cond) hempty⟩
  · exact ⟨_, _, _, exec_ret_of_entry (s := withHostOnly s st redraw cond) hk hsp⟩

theorem exec_call_withHostOnly {s t : State} (st : Byte) (redraw : Bool) (cond : Cond) {nnn : Addr}
    (h : exec (.call nnn) s = .next t) : AnswersAlike (exec (.call nnn) (withHostOnly s st redraw cond)) t := by
  rcases exec_call_cases h with ⟨hfull, rfl⟩ | ⟨hroom, rfl⟩
  · exact ⟨_, _, _, exec_call_of_full (s := withHostOnly s st redraw cond) nnn hfull⟩
  · exact ⟨_, _, _, exec_call_of_room (s := withHostOnly s st redraw cond) nnn hroom rfl⟩

/-- Settles O21: the operations an instruction is made of, its loops included, commute with setting the three pieces;
only a condition, `LD ST` and the display then write them. -/
theorem hostOnlyStateIsNeverRead : Obligations.HostOnlyStateIsNeverRead := by
  intro i s t st redraw cond h
  change AnswersAlike (exec i (withHostOnly s st redraw cond)) t
  cases i with
  | ret => exact exec_ret_withHostOnly st redraw cond h
  | call => exact exec_call_withHostOnly st redraw cond h
  | drw x y n =>
    cases h
    rw [exec_drw]
    exact ⟨st, redraw || (s.plotSprite (s.getV x).toNat (s.getV y).toNat n.toNat).changed, cond,
      by rw [plotSprite_withHostOnly]; rfl⟩
  | storeRegs x =>
    cases h
    exact ⟨st, redraw, cond, by rw [exec_storeRegs, storeBlock_withHostOnly]; rfl⟩
  | loadRegs x =>
    cases h
    exact ⟨st, redraw, cond, by rw [exec_loadRegs, loadBlock_withHostOnly]; rfl⟩
  | seImm | sneImm | seReg | sneReg | skp | sknp =>
    cases h
    exact ⟨st, redraw, cond, congrArg _ (skipIf_withHostOnly s st redraw cond _)⟩
  | _ => cases h; exact ⟨_, _, _, rfl⟩

end Sys2Proof.Proofs
end

section
/-! The invariant (spec/10_state.md R39) under an instruction, a step, the host operations and the runs of them. -/

namespace Sys2Proof.Proofs

open Sys2Proof.Machine Sys2Proof.Safety

/-! ### The invariant under an instruction -/

section

variable {i : Instr} {s t : State}

/-- An instruction leaves `pc` or stores an address modulo 4096 in it (R22). -/
theorem exec_pc (h : exec i s = .next t) : t.pc = s.pc ∨ ∃ a, t.pc = wrap12 a := by
  cases i with
  | ret => rcases exec_ret_cases h with ⟨-, rfl⟩ | ⟨k, hk, -, rfl⟩ <;> exact .inr ⟨_, rfl⟩
  | call nnn => rcases exec_call_cases h with ⟨-, rfl⟩ | ⟨hroom, rfl⟩ <;> exact .inr ⟨_, rfl⟩
  | seImm | sneImm | seReg | sneReg | skp | sknp =>
    cases h
    obtain ⟨a, ha, -⟩ := s.skipIf_spec _
    exact .inr ⟨a, congrArg State.pc ha⟩
  | ldVxK =>
    cases h
    exact .inl rfl
  | _ =>
    cases h
    exact .inr ⟨_, rfl⟩

theorem exec_index (h : exec i s = .next t) : t.i = s.i ∨ ∃ a, t.i = wrap12 a := by
  cases i with
  | ldI | addI | ldF => cases h; exact .inr ⟨_, rfl⟩
  | _ => exact .inl ((ExecFrame.of_exec _ _ _ h).ix (by simp) (by simp) (by simp))

theorem exec_stack (h : exec i s = .next t) :
    t.stack = s.stack ∨ ∃ (k : Nat) (hk : k < 16) (a : Word), t.stack = s.stack.set k (wrap12 a) hk := by
  cases i with
  | call nnn =>
    rcases exec_call_cases h with ⟨-, rfl⟩ | ⟨hroom, rfl⟩
    · exact .inl rfl
    · exact .inr ⟨_, hroom, _, rfl⟩
  | _ => exact .inl ((ExecFrame.of_exec _ _ _ h).stack (by simp))

theorem exec_wait (h : exec i s = .next t) : t.wait = s.wait ∨ t.wait.latched = false := by
  cases i with
  | ldVxK => cases h; exact .inr rfl
  | _ => exact .inl ((ExecFrame.of_exec _ _ _ h).wait (by simp))

theorem exec_memory_wf (h : exec i s = .next t) (hwf : Memory.wf s.mem = true) : Memory.wf t.mem = true := by
  cases i with
  | ldB => cases h; exact State.wf_memWrite (State.wf_memWrite (State.wf_memWrite hwf _ _) _ _) _ _
  | storeRegs x => cases h; exact State.wf_storeBlock hwf _
  | _ => exact (ExecFrame.of_exec _ _ _ h).mem (by simp) (by simp) ▸ hwf

theorem exec_keeps_legal (h : exec i s = .next t) (hs : LegalState s) : LegalState t := by
  obtain ⟨hpc, hi, hstack, hwait, hmem⟩ := hs
  refine ⟨?pc, ?index, ?stack, ?wait, exec_memory_wf h hmem⟩
  case pc =>
    rcases exec_pc h with he | ⟨a, he⟩ <;> rw [he]
    · exact hpc
    · exact wrap12_lt a
  case index =>
    rcases exec_index h with he | ⟨a, he⟩ <;> rw [he]
    · exact hi
    · exact wrap12_lt a
  case stack =>
    intro j
    rcases exec_stack h with he | ⟨k, hk, a, he⟩
    · rw [he]; exact hstack j
    · rw [he, Vector.getElem_set]
      split
      · exact wrap12_lt a
      · exact hstack j
  case wait =>
    rcases exec_wait h with he | he
    · rw [he]; exact hwait
    · exact fun _ => he

end

/-! ### The invariant under a step -/

theorem timerUpdate_keeps_legal {s : State} (hs : LegalState s) : LegalState s.timerUpdate := hs

theorem setCond_keeps_legal {s : State} (c : Cond) (hs : LegalState s) : LegalState (s.setCond c) := hs

theorem executeUnknown_keeps_legal {s : State} (hs : LegalState s) : LegalState s.executeUnknown :=
  ⟨wrap12_lt _, hs.2⟩

theorem completeWait_keeps_legal {s : State} (hs : LegalState s) : LegalState s.completeWait := by
  obtain ⟨-, hi, hstack, -, hmem⟩ := hs
  exact ⟨wrap12_lt _, hi, hstack, fun _ => rfl, hmem⟩

/-- Settles O22: the four kinds of step, a running one by what its instruction can do to each clause. -/
theorem stepKeepsInvariant : Obligations.StepKeepsInvariant := by
  intro s t hs h
  cases stepKind_of_step h with
  | runs hi hu => exact timerUpdate_keeps_legal (exec_keeps_legal hu (setCond_keeps_legal .none hs))
  | unknown => exact timerUpdate_keeps_legal (executeUnknown_keeps_legal hs)
  | waits => exact timerUpdate_keeps_legal (setCond_keeps_legal .none hs)
  | completes => exact timerUpdate_keeps_legal (setCond_keeps_legal .none (completeWait_keeps_legal hs))

/-! ### The invariant under the host operations -/

/-- Settles O23: the reset values, clause by clause. -/
theorem resetMeetsInvariant : Obligations.ResetMeetsInvariant := by
  refine ⟨by decide, by decide, fun k => ?_, fun _ => rfl, Memory.wf_reset⟩
  simp [State.reset]

/-- Only `RNG` differs from the reset state. -/
theorem resetOp_legal (s : State) : LegalState s.resetOp := resetMeetsInvariant

theorem loadProgram_legal (s : State) (bytes : List Byte) : LegalState (s.loadProgram bytes).2 := by
  obtain ⟨hpc, hi, hstack, hwait, hmem⟩ := resetOp_legal s
  exact ⟨hpc, hi, hstack, hwait, Memory.wf_load hmem bytes⟩

/-- A key is latched only in a wait, so the latch keeps the clause on `WAIT` (R210). -/
theorem latchKey_keeps_legal {s : State} (j : Nibble) (hs : LegalState s) : LegalState (s.latchKey j) := by
  have ⟨hpc, hi, hstack, _, hmem⟩ := hs
  unfold State.latchKey
  split
  · next hlatch =>
    refine ⟨hpc, hi, hstack, fun (hw : s.wait.waiting = false) => ?_, hmem⟩
    simp [hw] at hlatch
  · exact hs

theorem press_keeps_legal {s : State} (k : Int) (hs : LegalState s) : LegalState (s.press k) := by
  unfold State.press
  split
  · exact latchKey_keeps_legal _ hs
  · exact hs

theorem release_keeps_legal {s : State} (k : Int) (hs : LegalState s) : LegalState (s.release k) := by
  unfold State.release
  split <;> exact hs

theorem applyOp_keeps_legal {o : HostOp} {s t : State} (hs : LegalState s) (h : applyOp o s = .next t) :
    LegalState t := by
  cases o with
  | step => exact stepKeepsInvariant s t hs h
  | reset => cases h; exact resetOp_legal s
  | loadProgram bytes => cases h; exact loadProgram_legal s bytes
  | press k => cases h; exact press_keeps_legal k hs
  | release k => cases h; exact release_keeps_legal k hs
  | consumeRedraw | reseed => cases h; exact hs

theorem runOps_keeps_legal {ops : List HostOp} {s t : State} (hs : LegalState s) (h : runOps ops s = .next t) :
    LegalState t := by
  induction ops generalizing s with
  | nil => cases h; exact hs
  | cons o os ih =>
    obtain ⟨u, hu⟩ := applyOp_total o s
    rw [runOps_cons hu] at h
    exact ih (applyOp_keeps_legal hs hu) h

/-- Settles O24: the seven operations, and by induction their runs from reset. -/
theorem reachableStatesMeetInvariant : Obligations.ReachableStatesMeetInvariant :=
  ⟨fun _ _ _ => applyOp_keeps_legal, fun _ _ => runOps_keeps_legal resetMeetsInvariant⟩

end Sys2Proof.Proofs
end

section
/-! `Reset` and `LoadProgram` (spec/70_reset_and_hazards.md sections 1 and 2): the reset memory, and the bytes a load
leaves. -/

namespace Sys2Proof.Proofs

open Sys2Proof.Machine Sys2Proof.Safety

/-! ### The reset memory (R65, R66) -/

/-- Memory lists nothing after a reset, so every address reads as its reset byte. -/
theorem readByte_resetOp (s : State) {a : Nat} (ha : a < 4096) : s.resetOp.readByte a = resetByte a := by
  change resetByte (a % 4096) = resetByte a
  rw [Nat.mod_eq_of_lt ha]

theorem resetByte_below_font {a : Nat} (ha : a < 0x050) : resetByte a = 0 := if_pos ha

theorem resetByte_above_font {a : Nat} (ha : 0x0A0 ≤ a) : resetByte a = 0 := by
  have hlen : fontData.length = 80 := rfl
  rw [resetByte, Config.fontBase, if_neg (by omega), List.getD_eq_default _ _ (by omega)]

/-- From the font base upward the reset bytes are the font, byte by byte. -/
theorem resetByte_font : (List.range 80).map (fun j => resetByte (0x050 + j)) = fontData := by decide

/-- Settles O25: the reset values, with memory read at its reset bytes. -/
theorem resetValues : Obligations.ResetValues := by
  refine ⟨rfl, fun s =>
    ⟨?registers, rfl, rfl, rfl, ?stack, rfl, rfl, rfl, ?keys, ?pixels, rfl, rfl, rfl, ?zeros, ?font⟩⟩
  case registers => exact fun r => Vector.getElem_replicate _
  case stack => exact fun k hk => Vector.getElem_replicate _
  case keys => exact fun k => Vector.getElem_replicate _
  case pixels => exact fun y x => by simp [State.resetOp, State.reset, pixelAt]
  case zeros =>
    rintro a ha (hlow | hhigh)
    · rw [readByte_resetOp s ha, resetByte_below_font hlow]
    · rw [readByte_resetOp s ha, resetByte_above_font hhigh]
  case font =>
    have hread : ∀ j ∈ List.range 80, s.resetOp.readByte (0x050 + j) = resetByte (0x050 + j) := fun j hj =>
      readByte_resetOp s (by have := List.mem_range.mp hj; omega)
    rw [List.map_congr_left hread, resetByte_font]
    rfl

/-! ### `LoadProgram` (R242, R243) -/

section

variable (s : State) {bytes : List Byte}

theorem readByte_loadProgram_within (hfits : bytes.length ≤ 3584) {k : Nat} (hk : k < bytes.length) :
    (s.loadProgram bytes).2.readByte (0x200 + k) = bytes[k] := by
  rw [s.readByte_loadProgram hfits (by omega), if_pos (by omega), Nat.add_sub_cancel_left,
    List.getElem?_eq_getElem hk, Option.getD_some]

theorem readByte_loadProgram_outside (hfits : bytes.length ≤ 3584) {a : Nat} (ha : a < 4096)
    (hout : a < 0x200 ∨ 0x200 + bytes.length ≤ a) : (s.loadProgram bytes).2.readByte a = s.resetOp.readByte a := by
  rw [s.readByte_loadProgram hfits ha]
  split
  · rw [List.getElem?_eq_none (by omega), Option.getD_none]
  · rfl

theorem loadProgram_keepsAllBut (hfits : bytes.length ≤ 3584) :
    KeepsAllBut [.mem] s.resetOp (s.loadProgram bytes).2 := by
  rw [s.loadProgram_fits hfits]
  intro p hp
  cases p with
  | mem => simp at hp
  | v => exact fun _ => rfl
  | _ => rfl

end

/-- Settles O26: a load that fits by the bytes it copies, a longer one by the reset state it leaves. -/
theorem loadedProgramReadsBack : Obligations.LoadedProgramReadsBack := by
  refine fun s bytes => ⟨fun hfits k hk => readByte_loadProgram_within s hfits hk, fun hlong => ?_⟩
  rw [s.loadProgram_tooLong hlong]
  exact ⟨rfl, fun a => rfl⟩

/-- Settles O27: the two cases of a load, whole. -/
theorem loadProgramResetsThenCopies : Obligations.LoadProgramResetsThenCopies := fun s _ =>
  ⟨fun hfits => ⟨congrArg Prod.fst (s.loadProgram_fits hfits), loadProgram_keepsAllBut s hfits,
      fun _ hk => readByte_loadProgram_within s hfits hk, fun _ => readByte_loadProgram_outside s hfits⟩,
    s.loadProgram_tooLong⟩

end Sys2Proof.Proofs
end

section
/-! Arithmetic, logic and shifts (spec/43_alu.md R151, R153 to R162), and the arithmetic of `I` (spec/44_index_memory.md
R171, R172). -/

namespace Sys2Proof.Proofs

open Sys2Proof.Machine Sys2Proof.Safety

/-! ### A result without a flag (R151, R153 to R155) -/

/-- The effect of a register write that advances, with the written register and the others apart. -/
theorem setV_advance_result (s : State) (x : Nibble) (b : Byte) :
    (s.setV x b).advance.getV x = b ∧ (∀ r, r ≠ x → (s.setV x b).advance.getV r = s.getV r) ∧
      GoesTo (s.setV x b).advance (s.pc.toNat + 2) ∧ KeepsAllBut [.v, .pc] s (s.setV x b).advance := by
  obtain ⟨hv, hpc, hkeep⟩ := setV_advance_effect s x b
  exact ⟨by rw [hv, if_pos rfl], fun r hr => by rw [hv, if_neg hr], hpc, hkeep⟩

theorem exec_addImm (x : Nibble) (kk : Byte) (s : State) :
    exec (.addImm x kk) s = .next (s.setV x (sumByte (s.getV x) kk)).advance := rfl

theorem exec_orReg (x y : Nibble) (s : State) :
    exec (.orReg x y) s = .next (s.setV x (s.getV x ||| s.getV y)).advance := rfl

theorem exec_andReg (x y : Nibble) (s : State) :
    exec (.andReg x y) s = .next (s.setV x (s.getV x &&& s.getV y)).advance := rfl

theorem exec_xorReg (x y : Nibble) (s : State) :
    exec (.xorReg x y) s = .next (s.setV x (s.getV x ^^^ s.getV y)).advance := rfl

theorem sumByte_toNat (a b : Byte) : (sumByte a b).toNat = (a.toNat + b.toNat) % 256 := BitVec.toNat_ofNat _ _

/-- Settles O44: the wrapped sum is the one register write. -/
theorem addByteWrapsWithoutFlag : Obligations.AddByteWrapsWithoutFlag := by
  intro s x kk
  obtain ⟨hres, hrest⟩ := setV_advance_result s x (sumByte (s.getV x) kk)
  exact ⟨_, exec_addImm x kk s, by rw [hres, sumByte_toNat], hrest⟩

/-- Settles O46: each result is the one register write, and the library's word operations are bitwise. -/
theorem logicIsBitwiseWithoutFlag : Obligations.LogicIsBitwiseWithoutFlag := by
  intro s x y
  obtain ⟨hor, hor'⟩ := setV_advance_result s x (s.getV x ||| s.getV y)
  obtain ⟨hand, hand'⟩ := setV_advance_result s x (s.getV x &&& s.getV y)
  obtain ⟨hxor, hxor'⟩ := setV_advance_result s x (s.getV x ^^^ s.getV y)
  exact ⟨⟨_, exec_orReg x y s, fun j _ => by rw [hor, BitVec.getLsbD_or], hor'⟩,
    ⟨_, exec_andReg x y s, fun j _ => by rw [hand, BitVec.getLsbD_and], hand'⟩,
    ⟨_, exec_xorReg x y s, fun j _ => by rw [hxor, BitVec.getLsbD_xor], hxor'⟩⟩

/-! ### A result with its flag (R156 to R162) -/

/-- The effect of a result with its flag, `VF` written last: what `VF` holds, what the destination holds if it is not
`VF`, and the frame. -/
theorem setVFlag_advance_effect (s : State) (x : Nibble) (b : Byte) (f : Bool) :
    ((s.setVFlag x b f).advance.getV 0xF#4).toNat = f.toNat ∧
      (x ≠ 0xF#4 → (s.setVFlag x b f).advance.getV x = b) ∧
      (∀ r, r ≠ x → r ≠ 0xF#4 → (s.setVFlag x b f).advance.getV r = s.getV r) ∧
      GoesTo (s.setVFlag x b f).advance (s.pc.toNat + 2) ∧ KeepsAllBut [.v, .pc] s (s.setVFlag x b f).advance := by
  refine ⟨?flag, ?result, ?others, advance_goesTo (s.setVFlag x b f), ?frame⟩
  case flag =>
    rw [State.advance_getV, State.getV_setVFlag, if_pos rfl]
    cases f <;> rfl
  case result =>
    intro hx
    rw [State.advance_getV, State.getV_setVFlag, if_neg hx, if_pos rfl]
  case others =>
    intro r hrx hrF
    rw [State.advance_getV, State.getV_setVFlag, if_neg hrF, if_neg hrx]
  case frame =>
    exact keepsAllBut_mono (by simp) (keepsAllBut_setPc
      (keepsAllBut_append (setV_keepsAllBut s x b) (setV_keepsAllBut _ 0xF#4 _)) _)

theorem exec_addReg (x y : Nibble) (s : State) : exec (.addReg x y) s =
    .next (s.setVFlag x (sumByte (s.getV x) (s.getV y)) (carryOut (s.getV x) (s.getV y))).advance := rfl

theorem exec_sub (x y : Nibble) (s : State) : exec (.sub x y) s =
    .next (s.setVFlag x (diffByte (s.getV x) (s.getV y)) (noBorrow (s.getV x) (s.getV y))).advance := rfl

theorem exec_subn (x y : Nibble) (s : State) : exec (.subn x y) s =
    .next (s.setVFlag x (diffByte (s.getV y) (s.getV x)) (noBorrow (s.getV y) (s.getV x))).advance := rfl

theorem exec_shr (x y : Nibble) (s : State) : exec (.shr x y) s =
    .next (s.setVFlag x (halfByte (s.getV x)) (lowBit (s.getV x))).advance := rfl

theorem exec_shl (x y : Nibble) (s : State) : exec (.shl x y) s =
    .next (s.setVFlag x (doubleByte (s.getV x)) (highBit (s.getV x))).advance := rfl

theorem carryOut_toNat (a b : Byte) : (carryOut a b).toNat = if 256 ≤ a.toNat + b.toNat then 1 else 0 := by
  rw [carryOut, Bool.toNat, Bool.cond_decide]

theorem noBorrow_toNat (a b : Byte) : (noBorrow a b).toNat = if b.toNat ≤ a.toNat then 1 else 0 := by
  rw [noBorrow, Bool.toNat, Bool.cond_decide]

/-- The wrapped difference is what adding the subtrahend takes back to the minuend. -/
theorem diffByte_add (a b : Byte) : ((diffByte a b).toNat + b.toNat) % 256 = a.toNat := by
  rw [diffByte, BitVec.toNat_ofNat]
  omega

theorem halfByte_toNat (a : Byte) : (halfByte a).toNat = a.toNat / 2 := by
  rw [halfByte, BitVec.toNat_ofNat]
  omega

theorem doubleByte_toNat (a : Byte) : (doubleByte a).toNat = 2 * a.toNat % 256 := BitVec.toNat_ofNat _ _

theorem lowBit_toNat (a : Byte) : (lowBit a).toNat = a.toNat % 2 := by
  rw [lowBit, BitVec.getLsbD, Nat.toNat_testBit]
  omega

theorem highBit_toNat (a : Byte) : (highBit a).toNat = a.toNat / 128 := by
  rw [highBit, BitVec.getLsbD, Nat.toNat_testBit]
  omega

/-- Settles O47: the wrapped sum as the result, the carry as the flag. -/
theorem addRegistersWithCarry : Obligations.AddRegistersWithCarry := by
  intro s x y
  obtain ⟨hflag, hres, hrest⟩ := setVFlag_advance_effect s x (sumByte (s.getV x) (s.getV y))
    (carryOut (s.getV x) (s.getV y))
  exact ⟨_, exec_addReg x y s, hflag.trans (carryOut_toNat _ _), fun hx => by rw [hres hx, sumByte_toNat], hrest⟩

/-- Settles O48: the wrapped difference as the result, no borrow as the flag; `SUBN` exchanges the operands. -/
theorem subtractWithNotBorrow : Obligations.SubtractWithNotBorrow := by
  intro s x y
  obtain ⟨hflag, hres, hrest⟩ := setVFlag_advance_effect s x (diffByte (s.getV x) (s.getV y))
    (noBorrow (s.getV x) (s.getV y))
  obtain ⟨hflag', hres', hrest'⟩ := setVFlag_advance_effect s x (diffByte (s.getV y) (s.getV x))
    (noBorrow (s.getV y) (s.getV x))
  exact ⟨⟨_, exec_sub x y s, hflag.trans (noBorrow_toNat _ _), fun hx => by rw [hres hx, diffByte_add], hrest⟩,
    ⟨_, exec_subn x y s, hflag'.trans (noBorrow_toNat _ _), fun hx => by rw [hres' hx, diffByte_add], hrest'⟩⟩

/-- Settles O49: each shift by its result and the bit it shifts out; neither answer mentions `y`. -/
theorem shiftsInPlaceByOne : Obligations.ShiftsInPlaceByOne := by
  intro s x y
  obtain ⟨hflag, hres, hrest⟩ := setVFlag_advance_effect s x (halfByte (s.getV x)) (lowBit (s.getV x))
  obtain ⟨hflag', hres', hrest'⟩ := setVFlag_advance_effect s x (doubleByte (s.getV x)) (highBit (s.getV x))
  exact ⟨⟨_, exec_shr x y s, hflag.trans (lowBit_toNat _), fun hx => by rw [hres hx, halfByte_toNat], hrest⟩,
    ⟨_, exec_shl x y s, hflag'.trans (highBit_toNat _), fun hx => by rw [hres' hx, doubleByte_toNat], hrest'⟩,
    fun y' => ⟨(exec_shr x y' s).trans (exec_shr x y s).symm, (exec_shl x y' s).trans (exec_shl x y s).symm⟩⟩

/-! ### The arithmetic of `I` (R171, R172) -/

theorem exec_addI (x : Nibble) (s : State) :
    exec (.addI x) s = .next (s.setI (s.i + byteWord (s.getV x))).advance := rfl

theorem exec_ldF (x : Nibble) (s : State) : exec (.ldF x) s = .next (s.setI (glyphAddr (s.getV x))).advance := rfl

/-- Every glyph lies below 4096. -/
theorem glyphAddr_toNat (d : Byte) : (glyphAddr d).toNat = 0x050 + 5 * (d.toNat % 16) := by
  rw [glyphAddr, Config.fontBase, Config.glyphBytes, BitVec.toNat_ofNat]
  omega

/-- Settles O51: each instruction is one write of `I`, which wraps the sum and leaves the glyph address. -/
theorem indexArithmetic : Obligations.IndexArithmetic := by
  intro s x
  obtain ⟨hi, hrest⟩ := setI_advance_effect s (s.i + byteWord (s.getV x))
  obtain ⟨hi', hrest'⟩ := setI_advance_effect s (glyphAddr (s.getV x))
  refine ⟨⟨_, exec_addI x s, ?_, hrest⟩, ⟨_, exec_ldF x s, ?_, hrest'⟩⟩
  · rw [hi, BitVec.toNat_add, byteWord_toNat]
    omega
  · rw [hi', glyphAddr_toNat]
    omega

end Sys2Proof.Proofs
end

section
/-! Unknown opcodes (spec/60_exceptions.md R224), a `CALL` with its `RET` (spec/41_control_flow.md, C6), draws from a
seed (spec/45_random.md R182), and the jump to itself (spec/70_reset_and_hazards.md R247). -/

namespace Sys2Proof.Proofs

open Sys2Proof.Machine Sys2Proof.Safety

/-! ### `SYS` and the unknown opcodes (R130, R224) -/

theorem exec_sys (nnn : Addr) (s : State) : exec (.sys nnn) s = .next s.executeUnknown := rfl

/-- Settles O35: `SYS` has the effect of an unknown opcode. -/
theorem sysRecordsUnknownOpcode : Obligations.SysRecordsUnknownOpcode := fun s nnn =>
  ⟨_, exec_sys nnn s, raise_effect s .unknownOpcode⟩

/-- A step at an unknown opcode, or at `SYS`, which is executed as one. -/
theorem step_of_unknown_or_sys {s : State} (hw : s.wait.waiting = false)
    (h : (∃ r, decode s.fetchOpcode = .error r) ∨ ∃ nnn, decode s.fetchOpcode = .ok (.sys nnn)) :
    step s = .next s.executeUnknown.timerUpdate := by
  rcases h with herr | ⟨nnn, hd⟩
  · exact step_of_unknown hw ((stepInstr_eq_none_iff hw).mpr herr)
  · rw [step_of_stepInstr (stepInstr_eq_some_iff.mpr ⟨hw, hd⟩), exec_sys]
    rfl

/-- Settles O10: the condition is recorded in place of an effect, then the timers of the step move. -/
theorem unknownOpcodeIsNoop : Obligations.UnknownOpcodeIsNoop := by
  intro s hw h
  obtain ⟨hcond, hpc, hkeep⟩ := raise_effect s .unknownOpcode
  exact ⟨_, step_of_unknown_or_sys hw h, hcond, hpc, keepsAllBut_append hkeep (timerUpdate_keepsAllBut _)⟩

/-! ### `CALL`, then `RET` (C6) -/

/-- Settles O39: the `CALL` has room, so the `RET` finds the entry it pushed, the address after the `CALL`. -/
theorem retReturnsAfterCallSite : Obligations.RetReturnsAfterCallSite := by
  intro s t nnn hroom h
  obtain ⟨t', ht', -, hpushed, hothers, hsp, hkeep⟩ := (callPushesOrOverflows s nnn).1 _ hroom rfl
  cases ht'.symm.trans h
  obtain ⟨u, hu, hpc, hsp', hkeep'⟩ := (retPopsOrUnderflows t).1 _ hroom hsp
  have hstack : u.stack = t.stack := hkeep' .stack (by simp)
  refine ⟨u, hu, ?target, Fin.ext hsp', ?others, ?frame⟩
  case target => rwa [hpushed, GoesTo, Nat.mod_mod] at hpc
  case others =>
    intro j hj hne
    rw [hstack]
    exact hothers j hj hne
  case frame =>
    intro p hp
    by_cases hp' : p = .sp
    · exact hp' ▸ Fin.ext hsp'
    · exact keepsAllBut_append hkeep hkeep' p (by simp_all)

/-! ### Draws from a seed (R182) -/

theorem reseed_keepsAllBut (s : State) (seed : Nat) : KeepsAllBut [.rng] s (s.reseed seed) := by
  intro p hp
  cases p with
  | rng => simp at hp
  | v | mem => exact fun _ => rfl
  | _ => rfl

/-- A draw and the generator after it depend on the generator before it alone. -/
theorem exec_rnd_result {x : Nibble} {kk : Byte} {s t : State} (h : exec (.rnd x kk) s = .next t) :
    t.getV x = Config.rngDraw s.rng &&& kk ∧ t.rng = Config.rngNext s.rng := by
  cases (exec_rnd x kk s).symm.trans h
  exact ⟨(setV_advance_result s.rand.2 x _).1, rfl⟩

/-- Settles O33: after the seed the generator is the same in both states, and the draw reads nothing else. -/
theorem reseedFixesDraws : Obligations.ReseedFixesDraws := by
  intro s s' t t' seed x kk
  refine ⟨reseed_keepsAllBut s seed, fun h h' => ?_⟩
  obtain ⟨hv, hrng⟩ := exec_rnd_result h
  obtain ⟨hv', hrng'⟩ := exec_rnd_result h'
  exact ⟨hv.trans hv'.symm, hrng.trans hrng'.symm⟩

/-! ### The jump to itself (R247) -/

/-- A step at a jump to itself: `pc` is stored as it was. -/
theorem step_of_finished {s : State} (h : Finished s) : step s = .next (s.setCond .none).timerUpdate := by
  obtain ⟨nnn, hi, hpc⟩ := h
  have hstay : (s.setCond .none).setPc (addrWord nnn) = s.setCond .none := by
    rw [State.setPc, wrap12_addrWord, hpc]
    rfl
  rw [step_of_stepInstr hi, exec_jp, hstay, finishStep]

/-- Settles O34: the step only clears `COND` and counts down, which no clause of `Finished` reads. -/
theorem finishedRunStaysFinished : Obligations.FinishedRunStaysFinished := by
  intro s h
  exact ⟨_, step_of_finished h, h, rfl, countDown_toNat _, countDown_toNat _,
    keepsAllBut_mono (by simp) (keepsAllBut_append (setCond_keepsAllBut s .none) (timerUpdate_keepsAllBut _))⟩

end Sys2Proof.Proofs
end

section
/-! Skips on keys, the latch, and the key wait from its beginning to its end (spec/48_keys_wait.md R205, R206, R210 to
R212). -/

namespace Sys2Proof.Proofs

open Sys2Proof.Machine Sys2Proof.Safety

/-! ### `SKP` and `SKNP` (R205, R206) -/

theorem exec_skp (x : Nibble) (s : State) : exec (.skp x) s = .next (s.skipIf (s.keyPressed (s.getV x))) := rfl

theorem exec_sknp (x : Nibble) (s : State) : exec (.sknp x) s = .next (s.skipIf (!s.keyPressed (s.getV x))) := rfl

theorem keyPressed_iff (s : State) (b : Byte) :
    s.keyPressed b = true ↔ ∃ k : Nibble, k.toNat = b.toNat ∧ s.keyDown k = true := by
  unfold State.keyPressed
  split
  · next hlt =>
    constructor
    · exact fun h => ⟨BitVec.ofNatLT b.toNat hlt, rfl, h⟩
    · rintro ⟨k, hk, h⟩
      simpa only [State.keyDown, hk] using h
  · next hge =>
    simp only [Bool.false_eq_true, false_iff, not_exists, not_and]
    intro k hk
    omega

/-- Settles O42: both ends of each skip, by whether a key of that number is down. -/
theorem skipsOnKey : Obligations.SkipsOnKey := by
  intro s x
  rw [← keyPressed_iff]
  obtain ⟨hkeep, hpc⟩ := skipIf_effect s (s.keyPressed (s.getV x))
  obtain ⟨hkeep', hpc'⟩ := skipIf_effect s (!s.keyPressed (s.getV x))
  refine ⟨⟨_, exec_skp x s, hkeep, fun h => ?_, fun h => ?_⟩, ⟨_, exec_sknp x s, hkeep', fun h => ?_, fun h => ?_⟩⟩
  · rwa [if_pos h] at hpc
  · rwa [if_neg h] at hpc
  · rwa [if_neg (by simp [h])] at hpc'
  · rwa [if_pos (by simp [h])] at hpc'

/-! ### The latch and the completing step (R210, R211) -/

/-- Settles O29: the press sets the key after the latch, which has the same condition. -/
theorem latchTakesFirstPress : Obligations.LatchTakesFirstPress := by
  intro s j
  rw [press_toNat, State.setKey_wait, State.latchKey]
  simp only [Bool.and_eq_true, Bool.not_eq_true', and_assoc]
  exact apply_ite State.wait _ _ _

/-- Settles O12: the frame of a completing step, and the latched key in the target register. -/
theorem completingStepStoresKey : Obligations.CompletingStepStoresKey := by
  intro s hw hl
  have hstep := step_of_latched hw hl
  obtain ⟨hothers, hkeep⟩ := completing_step_keepsAllBut hstep hw hl
  refine ⟨_, hstep, rfl, s.npc_toNat, ?stored, hothers, rfl, countDown_toNat _, countDown_toNat _, hkeep⟩
  rw [State.timerUpdate_getV, State.setCond_getV, getV_completeWait, if_pos rfl, BitVec.toNat_setWidth]
  omega

/-! ### From the key wait to its end -/

/-- The state after `LD Vx, K` at `s` and any number of steps with no press. -/
structure WaitsSince (s : State) (x : Nibble) (u : State) : Prop where
  waiting : u.wait.waiting = true
  target : u.wait.target = x
  latched : u.wait.latched = false
  keeps : KeepsAllBut [.wait, .cond, .dt, .st] s u

theorem waitsSince_of_step {s : State} {x : Nibble} (hi : stepInstr s = some (.ldVxK x)) :
    ∃ u, step s = .next u ∧ WaitsSince s x u := by
  refine ⟨_, by rw [step_of_stepInstr hi, exec_ldVxK, finishStep], rfl, rfl, rfl, ?_⟩
  exact keepsAllBut_mono (by simp) (keepsAllBut_append (setCond_keepsAllBut s .none)
    (keepsAllBut_append (enterWait_keepsAllBut _ x) (timerUpdate_keepsAllBut _)))

theorem applyOp_step {s t : State} (h : step s = .next t) : applyOp .step s = .next t := h

theorem applyOp_press (s : State) (k : Int) : applyOp (.press k) s = .next (s.press k) := rfl

theorem WaitsSince.step {s u : State} {x : Nibble} (h : WaitsSince s x u) :
    ∃ u', step u = .next u' ∧ WaitsSince s x u' := by
  have hstep := step_of_not_latched h.waiting h.latched
  obtain ⟨-, hkeep⟩ := waiting_step_keepsAllBut hstep h.waiting h.latched
  exact ⟨_, hstep, h.waiting, h.target, h.latched, keepsAllBut_mono (by simp) (keepsAllBut_append h.keeps hkeep)⟩

theorem WaitsSince.run {s u : State} {x : Nibble} (h : WaitsSince s x u) (n : Nat) :
    ∃ u', runOps (List.replicate n .step) u = .next u' ∧ WaitsSince s x u' := by
  induction n generalizing u with
  | zero => exact ⟨u, rfl, h⟩
  | succ n ih =>
    obtain ⟨v, hv, hwait⟩ := h.step
    rw [List.replicate_succ, runOps_cons (applyOp_step hv)]
    exact ih hwait

/-- A press of a key that is up, then one step. -/
theorem WaitsSince.ends {s u : State} {x j : Nibble} (h : WaitsSince s x u) (hj : u.keyDown j = false) :
    ∃ t, runOps [.press j.toNat, .step] u = .next t ∧ (t.getV x).toNat = j.toNat ∧
        GoesTo t (u.pc.toNat + 2) ∧ t.wait.waiting = false := by
  have hlatch : (u.press j.toNat).wait = { u.wait with latched := true, key := j } := by
    rw [latchTakesFirstPress, if_pos ⟨h.waiting, h.latched, hj⟩]
  have hpc : (u.press j.toNat).pc = u.pc := press_keepsAllBut u j.toNat .pc (by simp)
  obtain ⟨t, hstep, -, hgoes, hkey, -, hwait, -⟩ := completingStepStoresKey (u.press j.toNat)
    (by rw [hlatch]; exact h.waiting) (by rw [hlatch])
  rw [hlatch] at hkey hwait
  rw [hpc] at hgoes
  refine ⟨t, ?_, h.target ▸ hkey, hgoes, by rw [hwait]⟩
  rw [runOps_cons (applyOp_press u _), runOps_cons (applyOp_step hstep), runOps]

/-- Settles O30: `WaitsSince` holds after the first step, is kept by the others, and ends by a press and a step. -/
theorem keyWaitEndsByPressThenStep : Obligations.KeyWaitEndsByPressThenStep := by
  intro s x j n hi hj
  obtain ⟨u₀, hstep, hentered⟩ := waitsSince_of_step hi
  obtain ⟨u, hrun, hwait⟩ := hentered.run n
  have hpc : u.pc = s.pc := hwait.keeps .pc (by simp)
  have hkeys : u.keys = s.keys := hwait.keeps .keys (by simp)
  refine ⟨u, ?_, hpc, hwait.waiting, hwait.keeps .v (by simp), ?_⟩
  · rw [List.replicate_succ, runOps_cons (applyOp_step hstep), hrun]
  · rw [← hpc]
    exact hwait.ends (by rw [State.keyDown, hkeys]; exact hj)

end Sys2Proof.Proofs
end

section
/-! `DRW` in closed form (spec/46_display.md R187): the pixels it flips, the two values of `VF`, when it asks for a
redraw, and its frame. -/

namespace Sys2Proof.Proofs

open Sys2Proof.Machine Sys2Proof.Safety

theorem showCanvas_keepsAllBut (s : State) (c : Canvas) : KeepsAllBut [.fb, .redraw] s (s.showCanvas c) := by
  intro p hp
  cases p with
  | fb | redraw => simp at hp
  | v | mem => exact fun _ => rfl
  | _ => rfl

/-- The loop marks a change exactly where the sprite has a set bit over some pixel of the screen. -/
theorem plotSprite_changed_iff {s : State} {x y n : Nat} (hn : n ≤ 15) :
    (s.plotSprite x y n).changed = true ↔ ∃ py < 32, ∃ px < 64, s.spriteOver x y n py px = true := by
  obtain ⟨-, -, hchanged⟩ := s.plotSprite_spec x y n hn
  rw [hchanged]
  constructor
  · rintro ⟨row, hrow, col, hcol, hbit⟩
    exact ⟨(y + row) % 32, Nat.mod_lt _ (by omega), (x + col) % 64, Nat.mod_lt _ (by omega),
      (spriteOver_eq_true_iff hn).mpr ⟨row, hrow, col, hcol, hbit, (Nat.mod_mod _ _).symm, (Nat.mod_mod _ _).symm⟩⟩
  · rintro ⟨py, -, px, -, hover⟩
    obtain ⟨row, hrow, col, hcol, hbit, -, -⟩ := (spriteOver_eq_true_iff hn).mp hover
    exact ⟨row, hrow, col, hcol, hbit⟩

/-- On the screen the sprite's bit is that of some row and column, the rows read byte by byte from `I`. -/
theorem drwBit_eq_true_iff (s : State) (x y n : Nibble) {py px : Nat} (hpy : py < 32) (hpx : px < 64) :
    drwBit s x y n py px = true ↔
      ∃ row < n.toNat, ∃ col < 8, (s.readByte (s.i.toNat + row)).getLsbD (7 - col) = true ∧
        ((s.getV y).toNat + row) % 32 = py ∧ ((s.getV x).toNat + col) % 64 = px := by
  rw [drwBit, spriteOver_eq_true_iff (by omega), Nat.mod_eq_of_lt hpy, Nat.mod_eq_of_lt hpx]
  simp only [spriteBit, operandByte_eq_readByte]

section

variable {s t : State} {x y n : Nibble}

theorem flipped_iff_drwBit (h : exec (.drw x y n) s = .next t) (py px : Nat) :
    pixelAt t.fb py px ≠ pixelAt s.fb py px ↔ drwBit s x y n py px = true := by
  rw [pixelAt_of_exec_drw h]
  cases drwBit s x y n py px <;> simp

/-- A pixel that was on is under a set bit of the sprite exactly when the draw has turned it off. -/
theorem turned_off_iff (h : exec (.drw x y n) s = .next t) (py px : Nat) :
    (pixelAt s.fb py px = true ∧ pixelAt t.fb py px = false) ↔
      (pixelAt s.fb py px = true ∧ drwBit s x y n py px = true) := by
  rw [pixelAt_of_exec_drw h]
  cases pixelAt s.fb py px <;> simp

theorem getV_of_exec_drw (h : exec (.drw x y n) s = .next t) {r : Nibble} (hr : r ≠ 0xF#4) : t.getV r = s.getV r :=
  (ExecFrame.of_exec _ _ _ h).v r (by simpa [mayWriteReg] using hr)

/-- `VF` after a draw is a flag (R23). -/
theorem vf_of_exec_drw (h : exec (.drw x y n) s = .next t) : t.getV 0xF#4 = 1 ∨ t.getV 0xF#4 = 0 := by
  cases (exec_drw x y n s).symm.trans h
  rw [State.advance_getV, State.getV_setVF, if_pos rfl]
  exact ite_eq_or_eq _ _ _

theorem redraw_of_exec_drw (h : exec (.drw x y n) s = .next t) :
    t.redraw = true ↔ s.redraw = true ∨ ∃ py < 32, ∃ px < 64, drwBit s x y n py px = true := by
  cases (exec_drw x y n s).symm.trans h
  rw [State.advance_redraw, State.setVF_redraw, State.showCanvas_redraw, Bool.or_eq_true,
    plotSprite_changed_iff (by omega)]
  rfl

theorem drw_advances (h : exec (.drw x y n) s = .next t) : GoesTo t (s.pc.toNat + 2) := by
  cases (exec_drw x y n s).symm.trans h
  exact advance_goesTo _

theorem drw_keepsAllBut (h : exec (.drw x y n) s = .next t) : KeepsAllBut [.v, .pc, .fb, .redraw] s t := by
  cases (exec_drw x y n s).symm.trans h
  exact keepsAllBut_mono (by simp) (keepsAllBut_setPc
    (keepsAllBut_append (showCanvas_keepsAllBut s _) (setV_keepsAllBut _ 0xF#4 _)) _)

end

/-- Settles O57: each clause in terms of the sprite's bit over each pixel. -/
theorem drawXorsSpriteOntoScreen : Obligations.DrawXorsSpriteOntoScreen := by
  intro s x y n
  have h := exec_drw x y n s
  refine ⟨_, h, ?flips, ?collision, ?noCollision, ?redraw, fun r => getV_of_exec_drw h, drw_advances h,
    drw_keepsAllBut h⟩
  case flips =>
    intro py hpy px hpx
    rw [flipped_iff_drwBit h, drwBit_eq_true_iff s x y n hpy hpx]
  case collision =>
    simp only [turned_off_iff h]
    exact (getV_vf_of_exec_drw h).mpr
  case noCollision =>
    simp only [turned_off_iff h, ← getV_vf_of_exec_drw h]
    exact (vf_of_exec_drw h).resolve_left
  case redraw =>
    simp only [flipped_iff_drwBit h]
    exact redraw_of_exec_drw h

end Sys2Proof.Proofs
end
